-- ==== Sys2Proof/Word.lean ====
section
/-! DEFINITION. The words of EasyUART CORE: bytes, identifiers, command words, raw samples and time values
(spec/00_scope.md R9, R10 "Widths"). -/

namespace Sys2Proof

/-- A byte of a frame, of a payload or of the byte operand (R9: a byte is 8 bits). -/
abbrev Byte := BitVec 8

/-- A VariableId, 8 bits; 0 is reserved (spec/10_state.md R21, spec/30_encoding.md R110). -/
abbrev VarId := BitVec 8

/-- The command word `cw`, 32 bits (spec/30_encoding.md R100, R101). -/
abbrev CommandWord := BitVec 32

/-- A raw counter sample, held zero-extended to 32 bits whatever the configured width `W` is
(spec/00_scope.md R6; `RawWidth.sample` narrows to `W` bits). -/
abbrev Raw := BitVec 32

/-- A time value: `ETW` = 64 bits, unsigned, arithmetic modulo `2^64` (spec/00_scope.md R6, R11). -/
abbrev Time := BitVec 64

end Sys2Proof
end

