-- ==== Sys2Proof/Config.lean ====
section
/-! DEFINITION. The configuration of the block (spec/00_scope.md R6, R7) and the free values of its environment.
No operation writes a configuration; a state carries the one it was built with. -/

namespace Sys2Proof

/-- The three rate classes, in evaluation order (spec/00_scope.md R7, R15). -/
inductive RateClass where
  | veryFast
  | fast
  | slow
  deriving DecidableEq, Repr

/-- The four variable types (spec/00_scope.md R7, R15). -/
inductive VarType where
  | int32
  | float32
  | bool
  | enum32
  deriving DecidableEq, Repr

/-- One value for each of the three rate classes: `x[0]`, `x[1]`, `x[2]` of the spec. -/
structure PerClass (α : Type) where
  veryFast : α
  fast : α
  slow : α
  deriving DecidableEq, Repr

/-- The width `W` of the raw counter: 16 or 32 bits, nothing else is sourced (R6, spec/92_eei_decisions.md D23). -/
inductive RawWidth where
  | w16
  | w32
  deriving DecidableEq, Repr

/-- What one raw-counter tick means (R6 `TIME_UNIT`): nominal only, no rule depends on it and nothing reads it. -/
inductive TimeUnit where
  | microsecond
  | millisecond
  deriving DecidableEq, Repr

/-- The OPEN parameters of R6, fixed when the block is configured. -/
structure Config where
  /-- `W`. -/
  rawWidth : RawWidth
  /-- `CAP`, the number of slots of the registry. -/
  cap : Nat
  /-- `INTERVAL[c]`, in raw-counter ticks. R8's ordering is not checked and nothing assumes it. -/
  interval : PerClass Time
  /-- `START_BYTE`. -/
  startByte : Byte
  /-- `END_BYTE`. -/
  endByte : Byte
  /-- `TIME_UNIT`. -/
  timeUnit : TimeUnit
  deriving DecidableEq, Repr

/-- What R6 asks of the parameters: `1 ≤ CAP ≤ 255` and `START_BYTE ≠ END_BYTE`. -/
abbrev Config.Legal (c : Config) : Prop := 1 ≤ c.cap ∧ c.cap ≤ 255 ∧ c.startByte ≠ c.endByte

/-- DESIGN CHOICE (log entry 2): the configuration of `State.reset`. The widths, intervals and sentinels are those of
spec/95_test_vectors.md vector S1; `CAP` = 64 is larger than every vector needs. No statement rests on these values. -/
def Config.illustrative : Config where
  rawWidth := .w32
  cap := 64
  interval := { veryFast := 500000, fast := 1000000, slow := 5000000 }
  startByte := 0xAA
  endByte := 0x55
  timeUnit := .microsecond

/-- `MAX_PACKET`, the largest total frame length in bytes (R6). -/
abbrev maxPacket : Nat := 256

/-- The frame overhead: START, LENGTH, 4 TIMESTAMP bytes, CHECKSUM, END (R7). -/
abbrev frameOverhead : Nat := 8

/-- A free value: what `read_raw_counter()` answers when the state lists no answer for it. -/
opaque Config.freeRaw : Nat → Raw

/-- A free value: what `transmit` answers when the state lists no answer for it (`true` is success). -/
opaque Config.freeTransmit : Nat → Bool

/-- A free value: which of two waiting requests the block takes when the state lists no choice (spec/60_exceptions.md
R301 allows both; `true` takes the main context's). -/
opaque Config.freePick : Nat → Bool

end Sys2Proof
end

