-- ==== Sys2Proof/Syntax.lean ====
section
/-! DEFINITION. The eight operations of the block, one constructor per row of spec/opcode_table.json. -/

namespace Sys2Proof

/-- A command as its opcode and the fields that opcode uses (spec/30_encoding.md R101, R102). A class operand is `none`
where the field holds the reserved code 3 (R111). The operands `arg64` and `wbuf` are ports, not fields of the word
(R100): the state holds them. -/
inductive Instr where
  /-- NOW (spec/40_time_source.md R132). -/
  | now
  /-- REGISTER (spec/41_registry.md R150). -/
  | register (id : VarId) (rclass : Option RateClass) (vtype : VarType)
  /-- SUBMIT (spec/41_registry.md R160); `n` is `len(value_bytes)`. -/
  | submit (id : VarId) (n : BitVec 9)
  /-- PENDING (spec/42_rate_queue.md R182). -/
  | pending (rclass : Option RateClass)
  /-- CLEAR (spec/42_rate_queue.md R190). -/
  | clear (rclass : Option RateClass)
  /-- ENCODE (spec/43_packet_codec.md R205). -/
  | encode (rclass : Option RateClass)
  /-- DECODE (spec/43_packet_codec.md R220); `n` is `len(bytes)`. -/
  | decode (n : BitVec 9)
  /-- TICK (spec/44_scheduler.md R255). -/
  | tick
  deriving DecidableEq, Repr

end Sys2Proof
end

