-- ==== Sys2Proof/WellFormed.lean ====
section
/-! DEFINITION. Which commands no rule refuses for their encoding alone (spec/30_encoding.md R111, R113). The block
executes the others too: it answers `IllegalCommand`. -/

namespace Sys2Proof

/-- A command is well formed when its class operand is not the reserved code 3 (R111) and, for DECODE, its byte count
is at most 256 (R113). Every `id`, every `vtype` and every byte count of SUBMIT is legal (R104, R111). -/
def Instr.wellFormed : Instr → Bool
  | .now => true
  | .register _ rc _ => rc.isSome
  | .submit _ _ => true
  | .pending rc => rc.isSome
  | .clear rc => rc.isSome
  | .encode rc => rc.isSome
  | .decode n => decide (n.toNat ≤ maxPacket)
  | .tick => true

end Sys2Proof
end

