-- ==== Sys2Proof/Decode.lean ====
section
/-! DEFINITION. The command-word decoder and encoder (spec/30_encoding.md R98, R101, R102, R103, R111, R112). -/

namespace Sys2Proof

/-- `cw[31:24]`, the opcode (R101). -/
def opField (cw : CommandWord) : BitVec 8 := cw.extractLsb' 24 8

/-- `cw[23:16]`, the VariableId (R101). -/
def idField (cw : CommandWord) : VarId := cw.extractLsb' 16 8

/-- `cw[15:14]`, the class code (R101). -/
def rclassField (cw : CommandWord) : BitVec 2 := cw.extractLsb' 14 2

/-- `cw[13:12]`, the type code (R101). -/
def vtypeField (cw : CommandWord) : BitVec 2 := cw.extractLsb' 12 2

/-- `cw[8:0]`, the byte count (R101). -/
def countField (cw : CommandWord) : BitVec 9 := cw.extractLsb' 0 9

/-- The numeric code of a rate class (R98). -/
def RateClass.code : RateClass → BitVec 2
  | .veryFast => 0
  | .fast => 1
  | .slow => 2

/-- The rate class of a code; 3 is reserved and names none (R98, R111). -/
def RateClass.ofCode (c : BitVec 2) : Option RateClass :=
  if c = 0 then some .veryFast
  else if c = 1 then some .fast
  else if c = 2 then some .slow
  else none

/-- The numeric code of a type (R98). -/
def VarType.code : VarType → BitVec 2
  | .int32 => 0
  | .float32 => 1
  | .bool => 2
  | .enum32 => 3

/-- The type of a code: all four codes are legal (R98, R111). -/
def VarType.ofCode (c : BitVec 2) : VarType :=
  if c = 0 then .int32
  else if c = 1 then .float32
  else if c = 2 then .bool
  else .enum32

/-- Why a command word selects no operation. -/
inductive DecodeError where
  /-- The opcode is 0x00 or 0x09 to 0xFF (R112). The step answers it with status `IllegalCommand`. -/
  | undefinedOpcode (op : BitVec 8)
  deriving DecidableEq, Repr

/-- The decoder: the opcode selects the operation and the fields that operation uses are read; every other bit is
ignored (R102, R103). -/
def decode (cw : CommandWord) : Except DecodeError Instr :=
  if opField cw = 0x01 then .ok .now
  else if opField cw = 0x02 then
    .ok (.register (idField cw) (RateClass.ofCode (rclassField cw)) (VarType.ofCode (vtypeField cw)))
  else if opField cw = 0x03 then .ok (.submit (idField cw) (countField cw))
  else if opField cw = 0x04 then .ok (.pending (RateClass.ofCode (rclassField cw)))
  else if opField cw = 0x05 then .ok (.clear (RateClass.ofCode (rclassField cw)))
  else if opField cw = 0x06 then .ok (.encode (RateClass.ofCode (rclassField cw)))
  else if opField cw = 0x07 then .ok (.decode (countField cw))
  else if opField cw = 0x08 then .ok .tick
  else .error (.undefinedOpcode (opField cw))

/-- The opcode of an operation (R102). -/
def opcode : Instr → BitVec 8
  | .now => 0x01
  | .register .. => 0x02
  | .submit .. => 0x03
  | .pending _ => 0x04
  | .clear _ => 0x05
  | .encode _ => 0x06
  | .decode _ => 0x07
  | .tick => 0x08

/-- The class field of an operand: the reserved code 3 where it names no class (R98, R111). -/
def classCode : Option RateClass → BitVec 2
  | some c => c.code
  | none => 3

/-- A command word from its fields, the ignored bits `cw[11:9]` zero (R101). -/
def packWord (op id : BitVec 8) (rc vt : BitVec 2) (n : BitVec 9) : CommandWord :=
  op ++ id ++ rc ++ vt ++ (0 : BitVec 3) ++ n

/-- The encoder: the word of a command, every field the operation does not use zero (R101, R102). -/
def encode (i : Instr) : CommandWord :=
  match i with
  | .now => packWord (opcode i) 0 0 0 0
  | .register id rc vt => packWord (opcode i) id (classCode rc) vt.code 0
  | .submit id n => packWord (opcode i) id 0 0 n
  | .pending rc => packWord (opcode i) 0 (classCode rc) 0 0
  | .clear rc => packWord (opcode i) 0 (classCode rc) 0 0
  | .encode rc => packWord (opcode i) 0 (classCode rc) 0 0
  | .decode n => packWord (opcode i) 0 0 0 n
  | .tick => packWord (opcode i) 0 0 0 0

/-- The bits of a command word that the operation looks at: the opcode and the "fields used" of R102. -/
def usedMask : Instr → CommandWord
  | .now => 0xFF000000
  | .register .. => 0xFFFFF000
  | .submit .. => 0xFFFF01FF
  | .pending _ => 0xFF00C000
  | .clear _ => 0xFF00C000
  | .encode _ => 0xFF00C000
  | .decode _ => 0xFF0001FF
  | .tick => 0xFF000000

/-- The decoder on a word numbered as spec/opcode_table.json numbers it: `cw` is presented whole at a port (R100), so
its bit `k` is the table's bit `k`; the bits above `nbits` are 0. -/
def decodeTableWord (nbits w : Nat) : Option Instr :=
  match decode (BitVec.ofNat 32 (w % 2 ^ nbits)) with
  | .ok i => some i
  | .error _ => none

end Sys2Proof
end

