-- ==== Sys2Proof/Machine/State.lean ====
section
/-! DEFINITION. The state of the block (spec/10_state.md), its configuration, and the interface at which the
application, the raw counter and the transport act on it (spec/30_encoding.md R100). -/

namespace Sys2Proof.Machine

/-- `payload[0..3]` of a slot (R21). -/
structure Payload where
  b0 : Byte
  b1 : Byte
  b2 : Byte
  b3 : Byte
  deriving DecidableEq, Repr

/-- One slot of the registry (R21). `rclass` cannot hold the reserved code 3 (R23 (c)). -/
structure Slot where
  occupied : Bool
  id : VarId
  vtype : VarType
  rclass : RateClass
  payload : Payload
  dirty : Bool
  deriving DecidableEq, Repr

/-- The per-class scheduler state (R25): codes 0 Idle, 1 Due, 2 Sent. -/
inductive SchedState where
  | idle
  | due
  | sent
  deriving DecidableEq, Repr

/-- The architectural state (R13, R29): everything the block remembers between operations. -/
structure Block where
  /-- `slot[0..CAP-1]` (R20, R21). -/
  slots : List Slot
  /-- `ts.last_raw` (R27), zero-extended. -/
  lastRaw : Raw
  /-- `ts.acc_high` (R27). -/
  accHigh : Time
  /-- `last_sent[c]` (R28). -/
  lastSent : PerClass Time
  /-- `sched_state[c]` (R25). -/
  sched : PerClass SchedState
  deriving DecidableEq, Repr

/-- What the application presents for one command (spec/30_encoding.md R100): the command word and the two operand
ports. `wbuf` lists the bytes from offset 0 on; an offset it does not list carries 0 (log entry 4). -/
structure Transaction where
  cw : CommandWord
  arg64 : Time
  wbuf : List Byte
  deriving DecidableEq, Repr

/-- The status of an operation (spec/30_encoding.md R106). -/
inductive Status where
  | ok
  | registryFull
  | duplicateId
  | invalidId
  | unknownId
  | typeMismatch
  | frameTooLarge
  | framingError
  | checksumError
  | truncatedFrame
  | illegalCommand
  deriving DecidableEq, Repr

/-- The result of one class in one TICK (spec/30_encoding.md R108). -/
inductive TickResult where
  | notDue
  | emptyAdvanced
  | sent
  | transmitFailed
  | frameTooLarge
  deriving DecidableEq, Repr

/-- A response (spec/30_encoding.md R100, R107). The port `rlen` is the length of `rbytes` (`Response.rlen`). -/
structure Response where
  status : Status
  rdata : Time
  rbytes : List Byte
  deriving DecidableEq, Repr

/-- One call the block makes outward, with the environment's answer (spec/60_exceptions.md R312, R313). -/
inductive Call where
  | readRaw (answer : Raw)
  | transmit (frame : List Byte) (success : Bool)
  deriving DecidableEq, Repr

/-- The interface, the MODEL's own fields and no state of the spec (log entries 3 to 8): what the environment offers
(requests, answers) and what it has seen (calls, responses). -/
structure Io where
  /-- The platform asks for the reset event (spec/70_reset_and_hazards.md R330). -/
  resetReq : Bool
  /-- Requests of the application's main context, the first one waiting to be taken. -/
  mainQ : List Transaction
  /-- Requests of its interrupt context (spec/60_exceptions.md R300, R301). -/
  intQ : List Transaction
  /-- The choices the block will make between two waiting requests (R301); `true` takes the main context's. -/
  picks : List Bool
  /-- The answers `read_raw_counter()` will give. -/
  raws : List Raw
  /-- The answers `transmit` will give; `true` is success. -/
  txs : List Bool
  /-- How many free values have been drawn: the index of the next one. -/
  nextFree : Nat
  /-- The input ports `cw`, `arg64`, `wbuf`: the request taken last. -/
  port : Transaction
  /-- The outward calls made so far, oldest first. -/
  calls : List Call
  /-- The responses given so far, oldest first. -/
  responses : List Response
  deriving DecidableEq, Repr

/-- The machine: the parameters of spec/00_scope.md R6 (no operation writes them), the architectural state, the
interface. -/
structure State where
  cfg : Config
  blk : Block
  io : Io
  deriving DecidableEq, Repr

/-- The block stops in no fault: it never traps, halts or hangs, and every error is a status of an operation
(spec/00_scope.md R14, spec/60_exceptions.md R290, R291). No constructor, and nothing raises one. -/
inductive Fault where
  deriving DecidableEq, Repr

/-- Why the model gives an instruction no meaning. -/
inductive Refusal where
  /-- Raised by an arm of `exec` whose instruction has no meaning yet: safe. No arm raises it. -/
  | notModelled (mnemonic : String)
  deriving DecidableEq, Repr

/-- An unoccupied slot. Its fields other than `occupied` and `dirty` hold no value (R22, R35); the zeros are a DESIGN
CHOICE (log entry 1) that no operation reads. -/
def Slot.empty : Slot where
  occupied := false
  id := 0
  vtype := .int32
  rclass := .veryFast
  payload := { b0 := 0, b1 := 0, b2 := 0, b3 := 0 }
  dirty := false

/-- The architectural state after the reset event (R35). -/
def Block.reset (c : Config) : Block where
  slots := List.replicate c.cap Slot.empty
  lastRaw := 0
  accHigh := 0
  lastSent := { veryFast := 0, fast := 0, slow := 0 }
  sched := { veryFast := .idle, fast := .idle, slow := .idle }

/-- The interface before anything happened at it: no request, no answer, no call, no response (log entry 5). -/
def Io.empty : Io where
  resetReq := false
  mainQ := []
  intQ := []
  picks := []
  raws := []
  txs := []
  nextFree := 0
  port := { cw := 0, arg64 := 0, wbuf := [] }
  calls := []
  responses := []

/-- The machine of a configuration right after reset. -/
def State.resetWith (c : Config) : State where
  cfg := c
  blk := Block.reset c
  io := Io.empty

/-- The machine right after reset, for the illustrative configuration (log entry 2). -/
def State.reset : State := State.resetWith Config.illustrative

end Sys2Proof.Machine
end

