-- ==== Sys2Proof/Machine/Operands.lean ====
section
/-! DEFINITION. Operands and their encodings: per-class values, widths, byte order, the operand ports, the numeric
codes of results. -/

namespace Sys2Proof

/-- `x[c]`. -/
def PerClass.get {α : Type} (x : PerClass α) : RateClass → α
  | .veryFast => x.veryFast
  | .fast => x.fast
  | .slow => x.slow

/-- `x[c] <- v`. -/
def PerClass.set {α : Type} (x : PerClass α) (c : RateClass) (v : α) : PerClass α :=
  match c with
  | .veryFast => { x with veryFast := v }
  | .fast => { x with fast := v }
  | .slow => { x with slow := v }

/-- `width(t)`: the payload width in bytes, 4, 4, 1, 4 (spec/00_scope.md R7, R10). -/
def VarType.width : VarType → Nat
  | .int32 => 4
  | .float32 => 4
  | .bool => 1
  | .enum32 => 4

/-- `W` as a number. -/
def RawWidth.bits : RawWidth → Nat
  | .w16 => 16
  | .w32 => 32

/-- The wrap period `2^W`, as a time value (spec/00_scope.md R15). -/
def RawWidth.wrap (w : RawWidth) : Time := BitVec.ofNat 64 (2 ^ w.bits)

/-- The `W` bits that the raw counter's port delivers of an answer (spec/60_exceptions.md R312). -/
def RawWidth.sample : RawWidth → Raw → Raw
  | .w16, r => (r.setWidth 16).setWidth 32
  | .w32, r => r

/-- `trunc_32(t)` (spec/00_scope.md R10). -/
def trunc32 (t : Time) : BitVec 32 := t.setWidth 32

/-- `zext_64(v)` of a 32-bit value (R10). -/
def zext64 (v : BitVec 32) : Time := v.setWidth 64

/-- `le32(v)`: the four bytes, least significant first (R10, spec/20_memory.md R63). -/
def le32 (v : BitVec 32) : List Byte :=
  [v.extractLsb' 0 8, v.extractLsb' 8 8, v.extractLsb' 16 8, v.extractLsb' 24 8]

/-- `s[i]` of a byte sequence, for an offset that the rules keep inside it. -/
def byteAt (s : List Byte) (i : Nat) : Byte := s.getD i 0

/-- `from_le32(b)` (R10). -/
def fromLe32 (b : List Byte) : BitVec 32 :=
  BitVec.ofNat 32 ((byteAt b 0).toNat + 2 ^ 8 * (byteAt b 1).toNat + 2 ^ 16 * (byteAt b 2).toNat
    + 2 ^ 24 * (byteAt b 3).toNat)

/-- `xor_all(s)` (R10). -/
def xorAll (s : List Byte) : Byte := s.foldr (· ^^^ ·) 0

/-- `wbuf[i]`: an offset the port's list does not reach carries 0 (log entry 4). -/
def wbufByte (wbuf : List Byte) (i : Nat) : Byte := wbuf.getD i 0

/-- `wbuf[0 .. n-1]` (spec/30_encoding.md R104). -/
def wbufPrefix (wbuf : List Byte) (n : Nat) : List Byte := (List.range n).map (wbufByte wbuf)

namespace Machine

/-- The status codes (spec/30_encoding.md R106). -/
def Status.code : Status → BitVec 8
  | .ok => 0x00
  | .registryFull => 0x01
  | .duplicateId => 0x02
  | .invalidId => 0x03
  | .unknownId => 0x04
  | .typeMismatch => 0x05
  | .frameTooLarge => 0x06
  | .framingError => 0x07
  | .checksumError => 0x08
  | .truncatedFrame => 0x09
  | .illegalCommand => 0x0A

/-- The tick result codes (spec/30_encoding.md R108). -/
def TickResult.code : TickResult → Nat
  | .notDue => 0
  | .emptyAdvanced => 1
  | .sent => 2
  | .transmitFailed => 3
  | .frameTooLarge => 4

/-- The port `rlen`, 16 bits (spec/30_encoding.md R100). -/
def Response.rlen (r : Response) : BitVec 16 := BitVec.ofNat 16 r.rbytes.length

/-- The scheduler state's code, 2 bits (spec/10_state.md R25). -/
def SchedState.code : SchedState → BitVec 2
  | .idle => 0
  | .due => 1
  | .sent => 2

/-- `payload[0 .. w-1]` (R21). -/
def Payload.bytes (p : Payload) (w : Nat) : List Byte := [p.b0, p.b1, p.b2, p.b3].take w

/-- `for i in 0 .. w-1: payload[i] <- wbuf[i]` (spec/41_registry.md R160): the bytes from `w` on stay. -/
def Payload.write (p : Payload) (w : Nat) (wbuf : List Byte) : Payload where
  b0 := if 0 < w then wbufByte wbuf 0 else p.b0
  b1 := if 1 < w then wbufByte wbuf 1 else p.b1
  b2 := if 2 < w then wbufByte wbuf 2 else p.b2
  b3 := if 3 < w then wbufByte wbuf 3 else p.b3

end Machine
end Sys2Proof
end

