-- ==== Sys2Proof/Machine/Flags.lean ====
section
/-! DEFINITION. The two flags of a slot, `occupied` and `dirty` (spec/10_state.md R26): what sets, clears and reads
each. -/

namespace Sys2Proof.Machine

/-- The slot is occupied and holds this identifier: what `find(id)` looks for (spec/20_memory.md R61). -/
def Slot.holds (sl : Slot) (id : VarId) : Bool := sl.occupied && sl.id == id

/-- REGISTER's write of one slot: `occupied` becomes 1, `dirty` 0, the payload is not written (spec/41_registry.md
R150). -/
def Slot.declare (sl : Slot) (id : VarId) (vt : VarType) (c : RateClass) : Slot :=
  { sl with id := id, vtype := vt, rclass := c, dirty := false, occupied := true }

/-- SUBMIT's write of one slot: the payload bytes and `dirty` in one indivisible step (spec/41_registry.md R161). -/
def Slot.store (sl : Slot) (wbuf : List Byte) : Slot :=
  { sl with payload := sl.payload.write sl.vtype.width wbuf, dirty := true }

/-- CLEAR's write of one slot: `dirty` becomes 0 if the slot is occupied and of the class (spec/42_rate_queue.md
R190). -/
def Slot.clearIf (c : RateClass) (sl : Slot) : Slot :=
  if sl.occupied = true ∧ sl.rclass = c then { sl with dirty := false } else sl

/-- CLEAR's write of the registry (R190). -/
def clearSlots (c : RateClass) (slots : List Slot) : List Slot := slots.map (Slot.clearIf c)

end Sys2Proof.Machine
end

