-- ==== Sys2Proof/Machine/Ops.lean ====
section
/-! DEFINITION. The named operations over the registry, the control state and the interface. Error entry is
`State.raise`; there is no error return (spec/60_exceptions.md R296, R297). -/

namespace Sys2Proof.Machine

/-- The block presents a response (spec/30_encoding.md R100). -/
def State.respond (r : Response) (s : State) : State :=
  { s with io := { s.io with responses := s.io.responses ++ [r] } }

/-- `return v`: the operation ends with status OK (spec/00_scope.md R10, spec/30_encoding.md R107). -/
def State.succeed (rdata : Time) (rbytes : List Byte) (s : State) : State :=
  s.respond { status := .ok, rdata := rdata, rbytes := rbytes }

/-- `raise e`, the one error entry: the operation ends with the error's status, `rdata` = 0 and `rlen` = 0; nothing
is saved and no architectural state changes (spec/60_exceptions.md R296). -/
def State.raise (e : Status) (s : State) : State := s.respond { status := e, rdata := 0, rbytes := [] }

/-- Write the registry. -/
def State.setSlots (slots : List Slot) (s : State) : State := { s with blk := { s.blk with slots := slots } }

/-- Write the time source: `ts.last_raw` and `ts.acc_high`. -/
def State.setTime (lastRaw : Raw) (accHigh : Time) (s : State) : State :=
  { s with blk := { s.blk with lastRaw := lastRaw, accHigh := accHigh } }

/-- `last_sent[c] <- t`. -/
def State.setLastSent (c : RateClass) (t : Time) (s : State) : State :=
  { s with blk := { s.blk with lastSent := s.blk.lastSent.set c t } }

/-- `sched_state[c] <- v`. -/
def State.setSched (c : RateClass) (v : SchedState) (s : State) : State :=
  { s with blk := { s.blk with sched := s.blk.sched.set c v } }

/-- What one look at a list of answers gives: the answer, the answers left, the index of the next free value. -/
structure Draw (α : Type) where
  value : α
  rest : List α
  next : Nat
  deriving DecidableEq, Repr

/-- Take the next listed answer, or a free value where none is listed. -/
def draw {α : Type} (free : Nat → α) (answers : List α) (next : Nat) : Draw α :=
  match answers with
  | a :: rest => { value := a, rest := rest, next := next }
  | [] => { value := free next, rest := [], next := next + 1 }

/-- `read_raw_counter()`: one call to the environment, answered by `W` bits (spec/60_exceptions.md R312). -/
def readRaw (s : State) : Raw × State :=
  let d := draw Config.freeRaw s.io.raws s.io.nextFree
  let v := s.cfg.rawWidth.sample d.value
  (v, { s with io := { s.io with raws := d.rest, nextFree := d.next, calls := s.io.calls ++ [.readRaw v] } })

/-- `transmit(f)`: one call to the environment, answered by one bit (spec/60_exceptions.md R313). -/
def transmit (f : List Byte) (s : State) : Bool × State :=
  let d := draw Config.freeTransmit s.io.txs s.io.nextFree
  (d.value,
    { s with io := { s.io with txs := d.rest, nextFree := d.next, calls := s.io.calls ++ [.transmit f d.value] } })

/-- `find(id)`: the index of the occupied slot that holds the identifier (spec/20_memory.md R61). -/
def find (slots : List Slot) (id : VarId) : Option Nat := slots.findIdx? (·.holds id)

/-- `slot[k]`, for an index the rules keep inside the table. -/
def slotAt (slots : List Slot) (k : Nat) : Slot := slots.getD k Slot.empty

/-- The least index of an unoccupied slot (spec/41_registry.md R152). -/
def firstFree (slots : List Slot) : Option Nat := slots.findIdx? (fun sl => !sl.occupied)

/-- A registry operation ends: on an error nothing is written, on success the registry is (R296). -/
def State.commitSlots (r : Except Status (List Slot)) (s : State) : State :=
  match r with
  | .error e => s.raise e
  | .ok slots => (s.setSlots slots).succeed 0 []

/-- The reset event: every piece of architectural state at its reset value, the environment untouched
(spec/70_reset_and_hazards.md R330, R331). -/
def State.resetEvent (s : State) : State :=
  { s with blk := Block.reset s.cfg, io := { s.io with resetReq := false } }

/-- The block takes the first request of the main context: it appears at the ports. -/
def State.takeMain (m : Transaction) (rest : List Transaction) (s : State) : State :=
  { s with io := { s.io with port := m, mainQ := rest } }

/-- The block takes the first request of the interrupt context. -/
def State.takeInt (q : Transaction) (rest : List Transaction) (s : State) : State :=
  { s with io := { s.io with port := q, intQ := rest } }

/-- The arbitration's choice between two waiting requests, either of which the block may take first
(spec/60_exceptions.md R301). -/
def State.pick (s : State) : Bool × State :=
  let d := draw Config.freePick s.io.picks s.io.nextFree
  (d.value, { s with io := { s.io with picks := d.rest, nextFree := d.next } })

/-- The block accepts one waiting request, if there is one (spec/20_memory.md R68, R70; spec/60_exceptions.md R301). That
each context's requests wait in a queue, the first one served first, is a DESIGN CHOICE (log entry 7). -/
def State.accept (s : State) : Option State :=
  match s.io.mainQ, s.io.intQ with
  | [], [] => none
  | m :: ms, [] => some (s.takeMain m ms)
  | [], q :: qs => some (s.takeInt q qs)
  | m :: ms, q :: qs => some (if s.pick.1 then s.pick.2.takeMain m ms else s.pick.2.takeInt q qs)

/-- The application presents a request that the block takes next: it stands first in the main context's queue, the
choice against a waiting request of the interrupt context falls on it, and no reset is asked for. -/
def State.present (t : Transaction) (s : State) : State :=
  { s with io := { s.io with
      resetReq := false
      mainQ := t :: s.io.mainQ
      picks := if s.io.intQ.isEmpty then s.io.picks else true :: s.io.picks } }

end Sys2Proof.Machine
end

