-- ==== Sys2Proof/Machine/RateQueue.lean ====
section
/-! DEFINITION. The Rate Queues (spec/42_rate_queue.md): operations PENDING and CLEAR. -/

namespace Sys2Proof.Machine

/-- One entry of a pending list: identifier, type, `payload[0 .. width-1]` (R182). -/
structure Entry where
  id : VarId
  vtype : VarType
  payload : List Byte
  deriving DecidableEq, Repr

/-- The identifiers 1 to 255, ascending. -/
def allIds : List VarId := (List.range 255).map fun i => BitVec.ofNat 8 (i + 1)

/-- The entry one identifier has in the pending list of class `c`, if any (R182). -/
def pendingEntry (c : RateClass) (slots : List Slot) (id : VarId) : Option Entry :=
  match find slots id with
  | none => none
  | some k =>
    let sl := slotAt slots k
    if sl.rclass = c ∧ sl.dirty = true then
      some { id := id, vtype := sl.vtype, payload := sl.payload.bytes sl.vtype.width }
    else none

/-- `PENDING(c)`: the dirty slots of the class in ascending identifier order (R182). -/
def pendingList (c : RateClass) (slots : List Slot) : List Entry := allIds.filterMap (pendingEntry c slots)

/-- An entry in PENDING's response: `id`, `vtype`, the payload bytes (spec/30_encoding.md R107). -/
def Entry.bytes (e : Entry) : List Byte := e.id :: e.vtype.code.setWidth 8 :: e.payload

/-- PENDING as a command (R182, spec/30_encoding.md R107). -/
def execPending (rc : Option RateClass) (s : State) : Host.Outcome State Fault Refusal :=
  .next (match rc with
    | none => s.raise .illegalCommand
    | some c =>
      let p := pendingList c s.blk.slots
      s.succeed (BitVec.ofNat 64 p.length) (p.flatMap Entry.bytes))

/-- `CLEAR(c)` (R190). -/
def clearClass (c : RateClass) (s : State) : State := s.setSlots (clearSlots c s.blk.slots)

/-- CLEAR as a command (R190). -/
def execClear (rc : Option RateClass) (s : State) : Host.Outcome State Fault Refusal :=
  .next (match rc with
    | none => s.raise .illegalCommand
    | some c => (clearClass c s).succeed 0 [])

end Sys2Proof.Machine
end

