-- ==== Sys2Proof/Machine/Codec.lean ====
section
/-! DEFINITION. The Packet Codec (spec/43_packet_codec.md): operations ENCODE and DECODE. -/

namespace Sys2Proof.Machine

/-- `L`, the sum of `1 + width(vtype)` over the list, an unbounded integer (R205). -/
def regionLength (p : List Entry) : Nat := (p.map fun e => 1 + e.vtype.width).sum

/-- The pair region: `[id] ++ payload` of each entry in order (R205). -/
def pairRegion (p : List Entry) : List Byte := p.flatMap fun e => e.id :: e.payload

/-- The bytes the checksum covers: START, LENGTH, TIMESTAMP and the pair region (R205, spec/30_encoding.md R95). -/
def coveredBytes (cfg : Config) (p : List Entry) (t : Time) : List Byte :=
  cfg.startByte :: BitVec.ofNat 8 (regionLength p) :: (le32 (trunc32 t) ++ pairRegion p)

/-- `encode_list(P, t)`: the frame, or none where it is `FrameTooLarge` (R205, R206). -/
def encodeList (cfg : Config) (p : List Entry) (t : Time) : Option (List Byte) :=
  if regionLength p + frameOverhead > maxPacket then none
  else some (coveredBytes cfg p t ++ [xorAll (coveredBytes cfg p t), cfg.endByte])

/-- ENCODE as a command: the frame of the class's pending list, stamped with the port `arg64` (R205). -/
def execEncode (rc : Option RateClass) (s : State) : Host.Outcome State Fault Refusal :=
  .next (match rc with
    | none => s.raise .illegalCommand
    | some c =>
      match encodeList s.cfg (pendingList c s.blk.slots) s.io.port.arg64 with
      | none => s.raise .frameTooLarge
      | some f => s.succeed 0 f)

/-- A decoded pair: identifier and raw payload (R220). -/
abbrev Pair := VarId × List Byte

/-- Step 6 of DECODE (R220, R226): cut the region into pairs from the left, each width taken from the registry. The
first argument bounds the number of pairs; the length of the region is always enough. -/
def parsePairs (slots : List Slot) : Nat → List Byte → Option (List Pair)
  | _, [] => some []
  | 0, _ :: _ => none
  | fuel + 1, id :: rest =>
    match find slots id with
    | none => none
    | some k =>
      let w := (slotAt slots k).vtype.width
      if rest.length < w then none
      else (parsePairs slots fuel (rest.drop w)).map ((id, rest.take w) :: ·)

/-- What DECODE yields: the timestamp, the pair region verbatim and the pairs it stands for. -/
structure Decoded where
  time : BitVec 32
  region : List Byte
  pairs : List Pair
  deriving DecidableEq, Repr

/-- `DECODE(n, bytes)` from its second test on (R220), the tests in the order of R221. -/
def decodeFrame (cfg : Config) (slots : List Slot) (bytes : List Byte) : Except Status Decoded :=
  let n := bytes.length
  let l := (byteAt bytes 1).toNat
  let region := (bytes.drop 6).take l
  if n = 0 then .error .framingError
  else if byteAt bytes 0 ≠ cfg.startByte then .error .framingError
  else if n < 2 then .error .truncatedFrame
  else if n < l + frameOverhead then .error .truncatedFrame
  else if byteAt bytes (7 + l) ≠ cfg.endByte then .error .framingError
  else if xorAll (bytes.take (6 + l)) ≠ byteAt bytes (6 + l) then .error .checksumError
  else
    match parsePairs slots region.length region with
    | none => .error .framingError
    | some ps => .ok { time := fromLe32 ((bytes.drop 2).take 4), region := region, pairs := ps }

/-- DECODE as a command: the bytes are at the port `wbuf`, at most 256 of them (R220, spec/30_encoding.md R104, R107,
R113). -/
def execDecode (n : BitVec 9) (s : State) : Host.Outcome State Fault Refusal :=
  .next (if n.toNat > maxPacket then s.raise .illegalCommand
    else
      match decodeFrame s.cfg s.blk.slots (wbufPrefix s.io.port.wbuf n.toNat) with
      | .error e => s.raise e
      | .ok d => s.succeed (zext64 d.time) d.region)

end Sys2Proof.Machine
end

