-- ==== Sys2Proof/Machine/Registry.lean ====
section
/-! DEFINITION. The Variable Registry (spec/41_registry.md): operations REGISTER and SUBMIT. -/

namespace Sys2Proof.Machine

/-- `REGISTER(id, vtype, rclass)` on the registry (R150), the tests in the order of R153. -/
def register (slots : List Slot) (id : VarId) (rc : Option RateClass) (vt : VarType) : Except Status (List Slot) :=
  match rc with
  | none => .error .illegalCommand
  | some c =>
    if id = 0 then .error .invalidId
    else if (find slots id).isSome then .error .duplicateId
    else
      match firstFree slots with
      | none => .error .registryFull
      | some k => .ok (slots.modify k (·.declare id vt c))

/-- `SUBMIT(id, n, wbuf)` on the registry (R160). -/
def submit (slots : List Slot) (id : VarId) (n : Nat) (wbuf : List Byte) : Except Status (List Slot) :=
  match find slots id with
  | none => .error .unknownId
  | some k =>
    if n ≠ (slotAt slots k).vtype.width then .error .typeMismatch
    else .ok (slots.modify k (·.store wbuf))

/-- REGISTER as a command (R150). -/
def execRegister (id : VarId) (rc : Option RateClass) (vt : VarType) (s : State) : Host.Outcome State Fault Refusal :=
  .next (s.commitSlots (register s.blk.slots id rc vt))

/-- SUBMIT as a command: the value bytes are at the port `wbuf` (R160, spec/30_encoding.md R104). -/
def execSubmit (id : VarId) (n : BitVec 9) (s : State) : Host.Outcome State Fault Refusal :=
  .next (s.commitSlots (submit s.blk.slots id n.toNat s.io.port.wbuf))

end Sys2Proof.Machine
end

