-- ==== Sys2Proof/Machine/TimeSource.lean ====
section
/-! DEFINITION. The Time Source (spec/40_time_source.md): operation NOW. -/

namespace Sys2Proof.Machine

/-- `NOW()` (R132): one raw read, a wrap counted when the sample is less than the last one, the sample stored, the
elapsed time returned. -/
def now (s : State) : Time × State :=
  let r := readRaw s
  let acc := if r.1 < s.blk.lastRaw then s.blk.accHigh + s.cfg.rawWidth.wrap else s.blk.accHigh
  (acc + zext64 r.1, r.2.setTime r.1 acc)

/-- NOW as a command: always OK, `rdata` is the elapsed time (R132, spec/30_encoding.md R107). -/
def execNow (s : State) : Host.Outcome State Fault Refusal := .next ((now s).2.succeed (now s).1 [])

end Sys2Proof.Machine
end

