-- ==== Sys2Proof/Machine/Scheduler.lean ====
section
/-! DEFINITION. The Scheduler (spec/44_scheduler.md): operation TICK. -/

namespace Sys2Proof.Machine

/-- A class ends in EmptyAdvanced: poll 2 becomes its baseline and it returns to Idle (R255, R258). -/
def advanceEmpty (c : RateClass) (s : State) : TickResult × State :=
  (.emptyAdvanced, ((now s).2.setLastSent c (now s).1).setSched c .idle)

/-- A class ends in Sent: CLEAR(c), then poll 2 becomes its baseline, Sent is entered and left (R255, R259, R265). -/
def finishSent (c : RateClass) (s : State) : TickResult × State :=
  let n := now (clearClass c s)
  (.sent, ((n.2.setLastSent c n.1).setSched c .sent).setSched c .idle)

/-- A built frame is handed to the transport, exactly once (R255, R259, R262). -/
def sendFrame (c : RateClass) (f : List Byte) (s : State) : TickResult × State :=
  let r := transmit f s
  if r.1 then finishSent c r.2 else (.transmitFailed, r.2.setSched c .idle)

/-- What TICK does for a class that is due, `t` being poll 1 (R255): nothing pending, too large, or a frame. -/
def serveDue (c : RateClass) (t : Time) (s : State) : TickResult × State :=
  let p := pendingList c s.blk.slots
  if p.isEmpty then advanceEmpty c s
  else
    match encodeList s.cfg p t with
    | none => (.frameTooLarge, s.setSched c .idle)
    | some f => sendFrame c f s

/-- TICK's evaluation of one class (R255, R256): poll 1, the due test on the elapsed time modulo `2^64`, the rest. -/
def tickClass (c : RateClass) (s : State) : TickResult × State :=
  let n := now s
  if n.1 - n.2.blk.lastSent.get c < n.2.cfg.interval.get c then (.notDue, n.2)
  else serveDue c n.1 (n.2.setSched c .due)

/-- The results of one TICK, per class, and the state after the walk. -/
structure TickRun where
  results : PerClass TickResult
  state : State
  deriving DecidableEq, Repr

/-- The walk over the classes in the fixed order VeryFast, Fast, Slow (R254, R255). -/
def tickWalk (s : State) : TickRun :=
  let a := tickClass .veryFast s
  let b := tickClass .fast a.2
  let d := tickClass .slow b.2
  { results := { veryFast := a.1, fast := b.1, slow := d.1 }, state := d.2 }

/-- TICK's status: `FrameTooLarge` if some class has that result, else OK (R255, R267). -/
def tickStatus (r : PerClass TickResult) : Status :=
  if r.veryFast = .frameTooLarge ∨ r.fast = .frameTooLarge ∨ r.slow = .frameTooLarge then .frameTooLarge else .ok

/-- TICK's `rdata`: `result[0] + 16·result[1] + 256·result[2]` (R255, R267). -/
def tickData (r : PerClass TickResult) : Time :=
  BitVec.ofNat 64 (r.veryFast.code + 16 * r.fast.code + 256 * r.slow.code)

/-- TICK as a command (R255): the walk, then the response, which carries `rdata` with either status. -/
def execTick (s : State) : Host.Outcome State Fault Refusal :=
  let w := tickWalk s
  .next (w.state.respond { status := tickStatus w.results, rdata := tickData w.results, rbytes := [] })

end Sys2Proof.Machine
end

