-- ==== Sys2Proof/Machine/Dispatch.lean ====
section
/-! DEFINITION. One arm per operation, each one call of its meaning. -/

namespace Sys2Proof.Machine

def exec (i : Instr) (s : State) : Host.Outcome State Fault Refusal :=
  match i with
  | .now => Sys2Proof.Machine.execNow s
  | .register id rc vt => Sys2Proof.Machine.execRegister id rc vt s
  | .submit id n => Sys2Proof.Machine.execSubmit id n s
  | .pending rc => Sys2Proof.Machine.execPending rc s
  | .clear rc => Sys2Proof.Machine.execClear rc s
  | .encode rc => Sys2Proof.Machine.execEncode rc s
  | .decode n => Sys2Proof.Machine.execDecode n s
  | .tick => Sys2Proof.Machine.execTick s

end Sys2Proof.Machine
end

