-- ==== Sys2Proof/Machine/Step.lean ====
section
/-! DEFINITION. One step: the reset event if the platform asks for it, else the next waiting request, else nothing
(spec/20_memory.md R68, spec/60_exceptions.md R316). -/

namespace Sys2Proof.Machine

/-- The block performs the command at its ports; an undefined opcode answers `IllegalCommand` and does nothing else
(spec/30_encoding.md R112). -/
def runCommand (s : State) : Host.Outcome State Fault Refusal :=
  match decode s.io.port.cw with
  | .ok i => exec i s
  | .error _ => .next (s.raise .illegalCommand)

/-- One step of the machine. Between commands the block is idle (R316). -/
def step (s : State) : Host.Outcome State Fault Refusal :=
  if s.io.resetReq then .next s.resetEvent
  else
    match s.accept with
    | none => .next s
    | some s' => runCommand s'

/-- The application presents the table word as the request the block takes next, its operand ports zero: the next step
runs exactly it (log entry 6). -/
def State.withFetchWord (s : State) (nbits w : Nat) : State :=
  s.present { cw := BitVec.ofNat 32 (w % 2 ^ nbits), arg64 := 0, wbuf := [] }

end Sys2Proof.Machine
end

