-- ==== Sys2Proof/Safety.lean ====
section
/-! DEFINITION. What counts as a good state and a safe step: the invariants of spec/10_state.md R23, R25 and R27, the
frames that may leave the block (spec/60_exceptions.md R313), and a step that does not stop. -/

namespace Sys2Proof.Machine

/-- R23 (a): no two occupied slots hold the same identifier. -/
abbrev UniqueIds (slots : List Slot) : Prop :=
  slots.Pairwise fun a b => a.occupied = true → b.occupied = true → a.id ≠ b.id

/-- R23 (b): no occupied slot holds identifier 0. -/
abbrev NoZeroId (slots : List Slot) : Prop := ∀ sl ∈ slots, sl.occupied = true → sl.id ≠ 0

/-- R23 (d): the occupied slots form a prefix. -/
abbrev OccupiedPrefix (slots : List Slot) : Prop :=
  slots.Pairwise fun a b => b.occupied = true → a.occupied = true

/-- R23 (f): a dirty slot is occupied. -/
abbrev DirtyIsOccupied (slots : List Slot) : Prop := ∀ sl ∈ slots, sl.dirty = true → sl.occupied = true

/-- The registry invariants of R23; (c) holds by the type of `Slot.rclass`, (e) follows from (a). -/
abbrev RegistryInv (slots : List Slot) : Prop :=
  UniqueIds slots ∧ NoZeroId slots ∧ OccupiedPrefix slots ∧ DirtyIsOccupied slots

/-- R27: `ts.last_raw` has `W` bits and `ts.acc_high` is a multiple of `2^W`. -/
abbrev TimeInv (w : RawWidth) (b : Block) : Prop :=
  b.lastRaw.toNat < 2 ^ w.bits ∧ b.accHigh.toNat % 2 ^ w.bits = 0

/-- R25: every class is Idle between operations. -/
abbrev AllIdle (b : Block) : Prop := b.sched = { veryFast := .idle, fast := .idle, slow := .idle }

/-- The invariant of the machine: `CAP` slots (R20), R23, R27, R25. -/
abbrev MachineInv (s : State) : Prop :=
  s.blk.slots.length = s.cfg.cap ∧ RegistryInv s.blk.slots ∧ TimeInv s.cfg.rawWidth s.blk ∧ AllIdle s.blk

/-- A frame as the scheduler hands it to the transport: 10 to 256 bytes (spec/60_exceptions.md R313), the layout of
spec/30_encoding.md R90, and bytes before END that xor to 0 (spec/43_packet_codec.md R209 (f)). -/
abbrev WellFramed (cfg : Config) (f : List Byte) : Prop :=
  10 ≤ f.length ∧ f.length ≤ maxPacket ∧ (byteAt f 1).toNat + frameOverhead = f.length ∧
    byteAt f 0 = cfg.startByte ∧ byteAt f (f.length - 1) = cfg.endByte ∧ xorAll f.dropLast = 0

/-- Every frame handed to the transport so far is well framed. -/
def FramesSent (s : State) : Prop := ∀ f ok, Call.transmit f ok ∈ s.io.calls → WellFramed s.cfg f

/-- A step that does not stop: it answers a next state. -/
def Continues (o : Host.Outcome State Fault Refusal) : Prop := ∃ t, o = .next t

end Sys2Proof.Machine
end

