-- ==== Sys2Proof/Certificates/Slice0/Obligations.lean ====
section
/-! DEFINITION. The statements about the machine, from the numbered rules of spec/. Each docstring names the rule or
section it formalises. No statement rests on a value of a configuration, on a value of a free value or on a reset value
that a log entry chose. -/

namespace Sys2Proof.Machine

/-- What the environment answers: the next listed answer, or a free value where none is listed (log entry 3). `rest` and
`n'` are the answers and the free-value index left. -/
def Answered {α : Type} (free : Nat → α) (listed : List α) (n : Nat) (a : α) (rest : List α) (n' : Nat) : Prop :=
  (listed = a :: rest ∧ n' = n) ∨ (listed = [] ∧ rest = [] ∧ a = free n ∧ n' = n + 1)

/-- `find(id) = none` (spec/20_memory.md R61). -/
def NotRegistered (slots : List Slot) (id : VarId) : Prop := ∀ sl ∈ slots, ¬(sl.occupied = true ∧ sl.id = id)

/-- `find(id) = k` and `sl` is `slot[k]` (R61). -/
def FirstHolder (slots : List Slot) (id : VarId) (k : Nat) (sl : Slot) : Prop :=
  slots[k]? = some sl ∧ sl.occupied = true ∧ sl.id = id ∧
    ∀ j < k, ∀ x, slots[j]? = some x → ¬(x.occupied = true ∧ x.id = id)

/-- `slot[k]` is the lowest-numbered unoccupied slot (spec/41_registry.md R152). -/
def FirstUnoccupied (slots : List Slot) (k : Nat) (sl : Slot) : Prop :=
  slots[k]? = some sl ∧ sl.occupied = false ∧ ∀ j < k, ∀ x, slots[j]? = some x → x.occupied = true

/-- The three results with which a class keeps its values and its baseline (R255, R261, R262); with EmptyAdvanced nothing
is sent either, but the baseline advances (R258). -/
def TickResult.Unsent (r : TickResult) : Prop := r = .notDue ∨ r = .transmitFailed ∨ r = .frameTooLarge

/-- `ts.acc_high` after a sample (spec/40_time_source.md R132). -/
def accAfter (w : RawWidth) (last : Raw) (acc : Time) (raw : Raw) : Time :=
  if raw < last then acc + BitVec.ofNat 64 (2 ^ w.bits) else acc

/-- The pair region cut into pairs (spec/43_packet_codec.md R226): each pair is the identifier of a registered variable
and as many bytes as its type is wide, and the pairs use the region up exactly. -/
def CutsInto (slots : List Slot) (region : List Byte) (pairs : List Pair) : Prop :=
  region = pairs.flatMap (fun p => p.1 :: p.2) ∧
    ∀ p ∈ pairs, ∃ k sl, FirstHolder slots p.1 k sl ∧ p.2.length = sl.vtype.width

/-- The values that spec/10_state.md R35 gives for reset. -/
def StatedResetValues (cfg : Config) (b : Block) : Prop :=
  b.slots.length = cfg.cap ∧ (∀ sl ∈ b.slots, sl.occupied = false ∧ sl.dirty = false) ∧
    b.lastRaw = 0 ∧ b.accHigh = 0 ∧ (∀ c, b.lastSent.get c = 0) ∧ ∀ c, b.sched.get c = .idle

/-- An outward call is a read of the raw counter. -/
def Call.isRead : Call → Bool
  | .readRaw _ => true
  | .transmit _ _ => false

/-- The identifiers and types of the occupied slots: all that DECODE may look at (R226). -/
def declarations (slots : List Slot) : List (Option (VarId × VarType)) :=
  slots.map fun sl => if sl.occupied then some (sl.id, sl.vtype) else none

/-- A slot without its dirty flag (spec/10_state.md R21). -/
def Slot.withoutDirty (sl : Slot) : Slot := { sl with dirty := false }

/-- The statuses each operation may answer with (spec/30_encoding.md R106, spec/60_exceptions.md R290, R298). -/
def mayAnswer : Instr → List Status
  | .now => [.ok]
  | .register .. => [.ok, .illegalCommand, .invalidId, .duplicateId, .registryFull]
  | .submit .. => [.ok, .unknownId, .typeMismatch]
  | .pending _ => [.ok, .illegalCommand]
  | .clear _ => [.ok, .illegalCommand]
  | .encode _ => [.ok, .illegalCommand, .frameTooLarge]
  | .decode _ => [.ok, .illegalCommand, .framingError, .truncatedFrame, .checksumError]
  | .tick => [.ok, .frameTooLarge]

/-- The dirty flag that spec/42_rate_queue.md R192 gives `slot[k]` after an operation, `sl` being the slot before it
and `sl'` after it. -/
def dirtyAfter (s : State) (k : Nat) (sl sl' : Slot) : Instr → Prop
  | .register .. => sl'.dirty = (sl.dirty && !(sl'.occupied && !sl.occupied))
  | .submit id n =>
    (FirstHolder s.blk.slots id k sl ∧ n.toNat = sl.vtype.width → sl'.dirty = true) ∧
    (¬(FirstHolder s.blk.slots id k sl ∧ n.toNat = sl.vtype.width) → sl'.dirty = sl.dirty)
  | .clear rc => sl'.dirty = (sl.dirty && !(sl.occupied && decide (rc = some sl.rclass)))
  | .tick => sl'.dirty = (sl.dirty && !(sl.occupied && decide ((tickWalk s).results.get sl.rclass = .sent)))
  | .now => sl'.dirty = sl.dirty
  | .pending _ => sl'.dirty = sl.dirty
  | .encode _ => sl'.dirty = sl.dirty
  | .decode _ => sl'.dirty = sl.dirty

/-- The sample an ideal free-running counter gives at true tick count `T` (spec/40_time_source.md R136). -/
def idealSample (w : RawWidth) (T : Nat) : Raw := BitVec.ofNat 32 (T % 2 ^ w.bits)

/-- The command NOW as the application presents it. -/
def nowCommand : Transaction := { cw := 0x01000000, arg64 := 0, wbuf := [] }

end Sys2Proof.Machine

open Sys2Proof Sys2Proof.Machine

/-! ### Encodings -/

/-- spec/95_test_vectors.md 2.1 and R102: what these command words decode to. The spec's own, not the source's
words: R102 (decision D8). -/
def Obligations.SpecCommandWordsDecode : Prop :=
  decode 0x01000000 = .ok .now ∧ decode 0x01FFFFFF = .ok .now ∧
  decode 0x02010FFF = .ok (.register 1 (some .veryFast) .int32) ∧
  decode 0x02FFB000 = .ok (.register 255 (some .slow) .enum32) ∧
  decode 0x0201C000 = .ok (.register 1 none .int32) ∧
  decode 0x0301C004 = .ok (.submit 1 4) ∧
  decode 0x04004000 = .ok (.pending (some .fast)) ∧
  decode 0x05008000 = .ok (.clear (some .slow)) ∧
  decode 0x0600C000 = .ok (.encode none) ∧
  decode 0x07000101 = .ok (.decode 257) ∧
  decode 0x08ABCDEF = .ok .tick ∧
  decode 0x00000000 = .error (.undefinedOpcode 0x00) ∧
  decode 0x09000000 = .error (.undefinedOpcode 0x09) ∧
  decode 0xFF000000 = .error (.undefinedOpcode 0xFF)

/-- R101, R102: decoding the word of any command, whatever its operands, gives the command back. The spec's own, not
the source's words: R101 (decision D8), R102 (decision D8). -/
def Obligations.DecodeInvertsEncode : Prop := ∀ i : Instr, decode (encode i) = .ok i

/-- R103: a decoded word encodes to itself with its ignored bits cleared, and changing ignored bits changes nothing.
The spec's own, not the source's words: R103 (decision D9). -/
def Obligations.IgnoredBitsDoNotMatter : Prop :=
  ∀ (cw : CommandWord) (i : Instr), decode cw = .ok i →
    encode i = cw &&& usedMask i ∧
    ∀ cw' : CommandWord, cw' &&& usedMask i = cw &&& usedMask i → decode cw' = .ok i

/-- R102, R114: a word decodes to an operation exactly when its opcode is 0x01 to 0x08; every other opcode is named.
The spec's own, not the source's words: R102 (decision D8); R114 (derived). -/
def Obligations.ExactlyTheEightOpcodesDecode : Prop :=
  ∀ cw : CommandWord,
    ((∃ i, decode cw = .ok i) ↔ 1 ≤ (cw.extractLsb' 24 8).toNat ∧ (cw.extractLsb' 24 8).toNat ≤ 8) ∧
    (∀ i, decode cw = .ok i → opcode i = cw.extractLsb' 24 8) ∧
    (∀ e, decode cw = .error e → e = .undefinedOpcode (cw.extractLsb' 24 8))

/-! ### Steps -/

/-- R68, R100: where the request the block takes holds a word that decodes to `i`, the step is `exec i` with that
request at the ports. The spec's own, not the source's words: R68 (decision D14), R100 (decision D8). -/
def Obligations.StepRunsTheDecodedCommand : Prop :=
  ∀ (s s' : State) (i : Instr), s.io.resetReq = false → s.accept = some s' → decode s'.io.port.cw = .ok i →
    step s = exec i s'

/-- R68, R70: the block takes one request at a time; a request taken appears at the ports and nothing else changes. That
requests wait in two queues, one per context, each served first come first, is the model's choice (log entry 7): R68 and
R70 fix no order among waiting requests. The spec's own, not the source's words: R68 (decision D14); R70 (derived). -/
def Obligations.TheWaitingRequestIsTaken : Prop :=
  (∀ (s : State) (m : Transaction) (ms : List Transaction), s.io.mainQ = m :: ms → s.io.intQ = [] →
    s.accept = some { s with io := { s.io with port := m, mainQ := ms } }) ∧
  (∀ (s : State) (q : Transaction) (qs : List Transaction), s.io.mainQ = [] → s.io.intQ = q :: qs →
    s.accept = some { s with io := { s.io with port := q, intQ := qs } }) ∧
  (∀ s : State, s.io.mainQ = [] → s.io.intQ = [] → s.accept = none)

/-- R301: of a main-context and an interrupt-context request that both wait, either is taken first; the other keeps
waiting. That the first requests of two queues compete (log entry 7) and that the choice is the next listed one or, where
none is listed, a free value (log entry 3) is the model's choice. The spec's own, not the source's words: R301 (decision
D14). -/
def Obligations.ArbitrationAllowsBothOrders : Prop :=
  ∀ (s : State) (m q : Transaction) (ms qs : List Transaction) (b : Bool) (rest : List Bool) (n : Nat),
    s.io.mainQ = m :: ms → s.io.intQ = q :: qs → Answered Config.freePick s.io.picks s.io.nextFree b rest n →
    s.accept = some (if b = true
      then { s with io := { s.io with port := m, mainQ := ms, picks := rest, nextFree := n } }
      else { s with io := { s.io with port := q, intQ := qs, picks := rest, nextFree := n } })

/-- A request that `withFetchWord` presents is what the next step runs, with nothing else changed (log entry 6). -/
def Obligations.PresentedWordRunsNext : Prop :=
  ∀ (s : State) (nbits w : Nat) (i : Instr), decodeTableWord nbits w = some i →
    step (s.withFetchWord nbits w) = exec i { s with io := { s.io with
      resetReq := false
      port := { cw := BitVec.ofNat 32 (w % 2 ^ nbits), arg64 := 0, wbuf := [] } } }

/-- R112: an undefined opcode is answered with `IllegalCommand`; no state changes and no environment call is made.
The spec's own, not the source's words: R112 (decision D9). -/
def Obligations.UndefinedOpcodeIsRefused : Prop :=
  ∀ s s' : State, s.io.resetReq = false → s.accept = some s' →
    ((s'.io.port.cw.extractLsb' 24 8).toNat = 0 ∨ 9 ≤ (s'.io.port.cw.extractLsb' 24 8).toNat) →
    step s = .next { s' with io := { s'.io with
      responses := s'.io.responses ++ [{ status := .illegalCommand, rdata := 0, rbytes := [] }] } }

/-- R316: with no request waiting and no reset asked for, a step changes nothing. -/
def Obligations.IdleStepChangesNothing : Prop :=
  ∀ s : State, s.io.resetReq = false → s.io.mainQ = [] → s.io.intQ = [] → step s = .next s

/-- R14, R291, R268: the block never traps, halts or hangs: every step of every state answers a next state,
if every outward call returns (log entry 9). The spec's own, not the source's words: R268 (derived). -/
def Obligations.EveryStepContinues : Prop := ∀ s : State, Continues (step s)

/-- R6: no step writes a parameter. -/
def Obligations.ParametersNeverChange : Prop := ∀ s t : State, step s = .next t → t.cfg = s.cfg

/-! ### Reset -/

/-- R35: the values the spec gives for reset, for every configuration. The fields that R35 says hold no value are
the model's choice (log entry 1): nothing is stated of them. The spec's own, not the source's words: R35 (decision
D18), R35 (decision D18). -/
def Obligations.ResetLeavesTheStatedValues : Prop :=
  State.reset = State.resetWith Config.illustrative ∧
  ∀ c : Config, (State.resetWith c).cfg = c ∧ StatedResetValues c (State.resetWith c).blk

/-- R330, R331: the reset event gives the architectural state its reset values and leaves the environment, the
requests and the answers alone (that requests are kept is the model's choice, log entry 10). The spec's own, not the source's words: R330 (decision D18); R331 (derived). -/
def Obligations.ResetEventEmptiesTheBlock : Prop :=
  ∀ s : State, s.io.resetReq = true →
    ∃ t, step s = .next t ∧ t.cfg = s.cfg ∧ StatedResetValues s.cfg t.blk ∧ t.io = { s.io with resetReq := false }

/-! ### Time Source -/

/-- R132: NOW. -/
def Obligations.NowAnswersElapsedTime : Prop :=
  (∀ cw : CommandWord, cw.extractLsb' 24 8 = 0x01 → decode cw = .ok .now) ∧
  ∀ (s : State) (a : Raw) (rest : List Raw) (n : Nat), Answered Config.freeRaw s.io.raws s.io.nextFree a rest n →
    let raw := s.cfg.rawWidth.sample a
    let acc := if raw < s.blk.lastRaw then s.blk.accHigh + BitVec.ofNat 64 (2 ^ s.cfg.rawWidth.bits) else s.blk.accHigh
    exec .now s = .next
      { cfg := s.cfg
        blk := { s.blk with lastRaw := raw, accHigh := acc }
        io := { s.io with
          raws := rest
          nextFree := n
          calls := s.io.calls ++ [.readRaw raw]
          responses := s.io.responses ++ [{ status := .ok, rdata := acc + zext64 raw, rbytes := [] }] } }

/-- R135: two successive NOW invocations differ by what the samples say, whatever the environment answers, and the
time does not decrease while `ts.acc_high` has a wrap period to go. The spec's own, not the source's words: R135
(derived). -/
def Obligations.NowIsMonotonic : Prop :=
  ∀ s : State, TimeInv s.cfg.rawWidth s.blk →
    let p := now s
    let q := now p.2
    let r1 := p.2.blk.lastRaw.toNat
    let r2 := q.2.blk.lastRaw.toNat
    let d := (q.1 - p.1).toNat
    (r1 ≤ r2 → d = r2 - r1) ∧ (r2 < r1 → d = 2 ^ s.cfg.rawWidth.bits - (r1 - r2) ∧ 1 ≤ d) ∧
    d ≤ 2 ^ s.cfg.rawWidth.bits - 1 ∧
    (p.2.blk.accHigh.toNat + 2 ^ s.cfg.rawWidth.bits < 2 ^ 64 → p.1.toNat ≤ q.1.toNat ∧ q.1.toNat = p.1.toNat + d)

/-- R136: from reset, with an ideal counter polled first within a wrap period and then always again within one, every NOW
command returns the true tick count. The run starts from the model's empty interface (log entry 5) with the commands
waiting in its main queue (log entry 7) and the counter's answers listed (log entry 3). The spec's own, not the source's
words: R136 (derived). -/
def Obligations.NowIsExactUnderTheCadence : Prop :=
  ∀ (c : Config) (ticks : List Nat),
    (∀ T ∈ ticks.head?, T < 2 ^ c.rawWidth.bits) →
    ticks.IsChain (fun T T' => T ≤ T' ∧ T' - T < 2 ^ c.rawWidth.bits) →
    ∃ t : State,
      core.run ticks.length { State.resetWith c with io := { Io.empty with
        mainQ := List.replicate ticks.length nowCommand
        raws := ticks.map (idealSample c.rawWidth) } } = .next t ∧
      t.io.responses = ticks.map fun T => { status := .ok, rdata := BitVec.ofNat 64 T, rbytes := [] }

/-- R137: between two polls of an ideal counter the result advances by the true difference modulo the wrap period:
every whole wrap that no poll saw is lost. The spec's own, not the source's words: R137 (derived). -/
def Obligations.UnseenWrapsAreLost : Prop :=
  ∀ (s : State) (T T' : Nat) (rest : List Raw), T ≤ T' →
    s.io.raws = idealSample s.cfg.rawWidth T :: idealSample s.cfg.rawWidth T' :: rest →
    ((now (now s).2).1 - (now s).1).toNat = (T' - T) % 2 ^ s.cfg.rawWidth.bits

/-- R133: (a) an equal sample counts no wrap and returns the same time again; (b) a smaller sample counts exactly
one wrap; (c) the first NOW after reset counts none and returns the sample. The spec's own, not the source's words:
R133 (derived). -/
def Obligations.NowCornerCases : Prop :=
  (∀ s : State, (now (now s).2).2.blk.lastRaw = (now s).2.blk.lastRaw → (now (now s).2).1 = (now s).1) ∧
  (∀ s : State, (now s).2.blk.lastRaw < s.blk.lastRaw →
    (now s).2.blk.accHigh = s.blk.accHigh + BitVec.ofNat 64 (2 ^ s.cfg.rawWidth.bits)) ∧
  (∀ s : State, s.blk = Block.reset s.cfg →
    (now s).1 = zext64 (now s).2.blk.lastRaw ∧ (now s).2.blk.accHigh = 0)

/-! ### Variable Registry -/

/-- R150: REGISTER. -/
def Obligations.RegisterFollowsItsRule : Prop :=
  (∀ cw : CommandWord, cw.extractLsb' 24 8 = 0x02 →
    decode cw = .ok (.register (cw.extractLsb' 16 8) (RateClass.ofCode (cw.extractLsb' 14 2))
      (VarType.ofCode (cw.extractLsb' 12 2)))) ∧
  (∀ (s : State) (id : VarId) (vt : VarType),
    exec (.register id none vt) s = .next (s.respond ⟨.illegalCommand, 0, []⟩)) ∧
  (∀ (s : State) (c : RateClass) (vt : VarType),
    exec (.register 0 (some c) vt) s = .next (s.respond ⟨.invalidId, 0, []⟩)) ∧
  (∀ (s : State) (id : VarId) (c : RateClass) (vt : VarType), id ≠ 0 → ¬NotRegistered s.blk.slots id →
    exec (.register id (some c) vt) s = .next (s.respond ⟨.duplicateId, 0, []⟩)) ∧
  (∀ (s : State) (id : VarId) (c : RateClass) (vt : VarType), id ≠ 0 → NotRegistered s.blk.slots id →
    (∀ sl ∈ s.blk.slots, sl.occupied = true) →
    exec (.register id (some c) vt) s = .next (s.respond ⟨.registryFull, 0, []⟩)) ∧
  (∀ (s : State) (id : VarId) (c : RateClass) (vt : VarType) (k : Nat) (sl : Slot), id ≠ 0 →
    NotRegistered s.blk.slots id → FirstUnoccupied s.blk.slots k sl →
    exec (.register id (some c) vt) s = .next ((s.setSlots (s.blk.slots.set k
      { occupied := true, id := id, vtype := vt, rclass := c, payload := sl.payload, dirty := false })).respond
        ⟨.ok, 0, []⟩))

/-- R151, R152: under the registry invariants a fresh valid identifier is registered exactly while fewer than `CAP`
slots are occupied, in the slot whose number is the number of occupied ones. The spec's own, not the source's words:
R151 (decision D4), R152 (decision D19). -/
def Obligations.RegisterSucceedsBelowCapacity : Prop :=
  ∀ (s : State) (id : VarId) (c : RateClass) (vt : VarType),
    RegistryInv s.blk.slots → id ≠ 0 → NotRegistered s.blk.slots id →
    let m := s.blk.slots.countP (·.occupied)
    (m < s.blk.slots.length → exec (.register id (some c) vt) s = .next
      ((s.setSlots (s.blk.slots.modify m fun sl =>
        { occupied := true, id := id, vtype := vt, rclass := c, payload := sl.payload, dirty := false })).respond
          ⟨.ok, 0, []⟩)) ∧
    (m = s.blk.slots.length → exec (.register id (some c) vt) s = .next (s.respond ⟨.registryFull, 0, []⟩))

/-- R155: an identifier just registered is refused as a duplicate, whatever its type and class. The spec's own, not
the source's words: R155 (derived). -/
def Obligations.RegisterTwiceIsDuplicate : Prop :=
  ∀ (s : State) (id : VarId) (c c' : RateClass) (vt vt' : VarType) (slots : List Slot),
    register s.blk.slots id (some c) vt = .ok slots →
    ∃ t, exec (.register id (some c) vt) s = .next t ∧ t.blk.slots = slots ∧
      exec (.register id (some c') vt') t = .next (t.respond ⟨.duplicateId, 0, []⟩)

/-- R160, R161: SUBMIT. -/
def Obligations.SubmitFollowsItsRule : Prop :=
  (∀ cw : CommandWord, cw.extractLsb' 24 8 = 0x03 →
    decode cw = .ok (.submit (cw.extractLsb' 16 8) (cw.extractLsb' 0 9))) ∧
  (∀ (s : State) (id : VarId) (n : BitVec 9), NotRegistered s.blk.slots id →
    exec (.submit id n) s = .next (s.respond ⟨.unknownId, 0, []⟩)) ∧
  (∀ (s : State) (id : VarId) (n : BitVec 9) (k : Nat) (sl : Slot), FirstHolder s.blk.slots id k sl →
    (n.toNat ≠ sl.vtype.width → exec (.submit id n) s = .next (s.respond ⟨.typeMismatch, 0, []⟩)) ∧
    (n.toNat = sl.vtype.width →
      let v := wbufByte s.io.port.wbuf
      let stored : Payload := if sl.vtype = .bool then { sl.payload with b0 := v 0 } else ⟨v 0, v 1, v 2, v 3⟩
      exec (.submit id n) s = .next ((s.setSlots (s.blk.slots.set k
        { sl with payload := stored, dirty := true })).respond ⟨.ok, 0, []⟩)))

/-- R162 (d), R180: a second SUBMIT of an identifier leaves the registry as if the first had not been. -/
def Obligations.LastSubmitWins : Prop :=
  ∀ (s : State) (id : VarId) (n m : BitVec 9) (w : List Byte) (slots : List Slot),
    submit s.blk.slots id n.toNat s.io.port.wbuf = .ok slots →
    submit slots id m.toNat w = submit s.blk.slots id m.toNat w

/-- R164: after a successful SUBMIT the pending list of the variable's class holds it with the submitted bytes, and
nothing else where no other slot of the class is dirty. The spec's own, not the source's words: R164 (derived). -/
def Obligations.SubmittedValueIsPending : Prop :=
  ∀ (s : State) (id : VarId) (n : BitVec 9) (k : Nat) (sl : Slot), RegistryInv s.blk.slots →
    FirstHolder s.blk.slots id k sl → n.toNat = sl.vtype.width →
    ∃ t, exec (.submit id n) s = .next t ∧
      ({ id := id, vtype := sl.vtype, payload := wbufPrefix s.io.port.wbuf n.toNat } : Entry)
        ∈ pendingList sl.rclass t.blk.slots ∧
      ((∀ x ∈ s.blk.slots, x.id ≠ id → x.rclass = sl.rclass → x.dirty = false) →
        pendingList sl.rclass t.blk.slots =
          [{ id := id, vtype := sl.vtype, payload := wbufPrefix s.io.port.wbuf n.toNat }])

/-! ### Rate Queues -/

/-- R182: PENDING answers, for the registry invariants, exactly the dirty slots of the class in ascending identifier
order, and changes nothing. -/
def Obligations.PendingFollowsItsRule : Prop :=
  (∀ cw : CommandWord, cw.extractLsb' 24 8 = 0x04 →
    decode cw = .ok (.pending (RateClass.ofCode (cw.extractLsb' 14 2)))) ∧
  (∀ s : State, exec (.pending none) s = .next (s.respond ⟨.illegalCommand, 0, []⟩)) ∧
  ∀ (s : State) (c : RateClass), ∃ p : List Entry,
    exec (.pending (some c)) s = .next (s.respond ⟨.ok, BitVec.ofNat 64 p.length,
      p.flatMap fun e => e.id :: e.vtype.code.setWidth 8 :: e.payload⟩) ∧
    p.Pairwise (fun a b => a.id < b.id) ∧
    (RegistryInv s.blk.slots → ∀ e : Entry, e ∈ p ↔ ∃ sl ∈ s.blk.slots, sl.occupied = true ∧ sl.rclass = c ∧
      sl.dirty = true ∧ e = ⟨sl.id, sl.vtype, sl.payload.bytes sl.vtype.width⟩)

/-- R183 (c), (d): every entry's payload is as long as its type is wide, and the list is no longer than the
registry. The spec's own, not the source's words: R183 (derived). -/
def Obligations.PendingListIsBounded : Prop :=
  ∀ (c : RateClass) (slots : List Slot),
    (∀ e ∈ pendingList c slots, e.payload.length = e.vtype.width) ∧
    (pendingList c slots).length ≤ slots.length ∧ (pendingList c slots).length ≤ 255

/-- R190: CLEAR. -/
def Obligations.ClearFollowsItsRule : Prop :=
  (∀ cw : CommandWord, cw.extractLsb' 24 8 = 0x05 →
    decode cw = .ok (.clear (RateClass.ofCode (cw.extractLsb' 14 2)))) ∧
  (∀ s : State, exec (.clear none) s = .next (s.respond ⟨.illegalCommand, 0, []⟩)) ∧
  ∀ (s : State) (c : RateClass), exec (.clear (some c)) s = .next ((s.setSlots (s.blk.slots.map fun sl =>
    { sl with dirty := sl.dirty && !(sl.occupied && decide (sl.rclass = c)) })).respond ⟨.ok, 0, []⟩)

/-- R191 (b): after CLEAR the class's pending list is empty, and it stays empty through every operation but SUBMIT.
The spec's own, not the source's words: R191 (derived). -/
def Obligations.ClearedClassStaysEmpty : Prop :=
  (∀ (s : State) (c : RateClass), ∃ t, exec (.clear (some c)) s = .next t ∧ pendingList c t.blk.slots = []) ∧
  ∀ (s t : State) (c : RateClass) (i : Instr), pendingList c s.blk.slots = [] → (∀ id n, i ≠ .submit id n) →
    exec i s = .next t → pendingList c t.blk.slots = []

/-- R192: the life of the dirty flag of every slot, through every operation. -/
def Obligations.DirtyFlagLife : Prop :=
  ∀ (s t : State) (i : Instr) (k : Nat) (sl : Slot), exec i s = .next t → s.blk.slots[k]? = some sl →
    ∃ sl', t.blk.slots[k]? = some sl' ∧ dirtyAfter s k sl sl' i

/-! ### Packet Codec -/

/-- R205: ENCODE. -/
def Obligations.EncodeFollowsItsRule : Prop :=
  (∀ cw : CommandWord, cw.extractLsb' 24 8 = 0x06 →
    decode cw = .ok (.encode (RateClass.ofCode (cw.extractLsb' 14 2)))) ∧
  (∀ s : State, exec (.encode none) s = .next (s.respond ⟨.illegalCommand, 0, []⟩)) ∧
  ∀ (s : State) (c : RateClass),
    let p := pendingList c s.blk.slots
    let l := (p.map fun e => 1 + e.vtype.width).sum
    let body := p.flatMap fun e => e.id :: e.payload
    let head := [s.cfg.startByte, BitVec.ofNat 8 l] ++ le32 (s.io.port.arg64.setWidth 32)
    (248 < l → exec (.encode (some c)) s = .next (s.respond ⟨.frameTooLarge, 0, []⟩)) ∧
    (l ≤ 248 → body.length = l ∧ exec (.encode (some c)) s = .next (s.respond
      ⟨.ok, 0, head ++ body ++ [xorAll (head ++ body), s.cfg.endByte]⟩))

/-- R90, R92, R95: the layout of every frame that the encoder gives for the pending list of a class. -/
def Obligations.FrameLayout : Prop :=
  ∀ (cfg : Config) (c : RateClass) (slots : List Slot) (t : Time) (f : List Byte),
    encodeList cfg (pendingList c slots) t = some f →
    let l := (byteAt f 1).toNat
    l = ((pendingList c slots).map fun e => 1 + e.vtype.width).sum ∧ l ≤ 248 ∧ f.length = l + 8 ∧
    byteAt f 0 = cfg.startByte ∧ (f.drop 2).take 4 = le32 (t.setWidth 32) ∧
    (f.drop 6).take l = (pendingList c slots).flatMap (fun e => e.id :: e.payload) ∧
    (∀ e ∈ pendingList c slots, e.payload.length = e.vtype.width) ∧
    byteAt f (6 + l) = xorAll (f.take (6 + l)) ∧ byteAt f (7 + l) = cfg.endByte

/-- R63: the TIMESTAMP of a frame is little-endian, least significant byte at offset 2, and DECODE reads it so. -/
def Obligations.TimestampIsLittleEndian : Prop :=
  (∀ (cfg : Config) (p : List Entry) (t : Time) (f : List Byte), encodeList cfg p t = some f →
    ∀ i < 4, byteAt f (2 + i) = t.extractLsb' (8 * i) 8) ∧
  (∀ (cfg : Config) (slots : List Slot) (bytes : List Byte) (d : Decoded), decodeFrame cfg slots bytes = .ok d →
    ∀ i < 4, d.time.extractLsb' (8 * i) 8 = byteAt bytes (2 + i)) ∧
  (∀ v : BitVec 32, fromLe32 (le32 v) = v) ∧ ∀ b : List Byte, b.length = 4 → le32 (fromLe32 b) = b

/-- R206: encoding fails exactly when the pairs exceed 248 bytes: 5 for each four-byte variable, 2 for each Bool.
The spec's own, not the source's words: R206 (derived). -/
def Obligations.EncodeFailsExactlyAboveTheLimit : Prop :=
  ∀ (cfg : Config) (p : List Entry) (t : Time),
    encodeList cfg p t = none ↔
      249 ≤ 5 * p.countP (fun e => decide (e.vtype ≠ .bool)) + 2 * p.countP (fun e => decide (e.vtype = .bool))

/-- R220, R224: DECODE, its tests in their order. -/
def Obligations.DecodeFollowsItsRule : Prop :=
  (∀ cw : CommandWord, cw.extractLsb' 24 8 = 0x07 → decode cw = .ok (.decode (cw.extractLsb' 0 9))) ∧
  ∀ (s : State) (n : BitVec 9),
    let b := wbufByte s.io.port.wbuf
    let bytes := wbufPrefix s.io.port.wbuf n.toNat
    let l := (b 1).toNat
    let region := (bytes.drop 6).take l
    let answers (st : Status) : Prop := exec (.decode n) s = .next (s.respond ⟨st, 0, []⟩)
    (256 < n.toNat → answers .illegalCommand) ∧
    (n.toNat = 0 → answers .framingError) ∧
    (1 ≤ n.toNat → n.toNat ≤ 256 → b 0 ≠ s.cfg.startByte → answers .framingError) ∧
    (n.toNat = 1 → b 0 = s.cfg.startByte → answers .truncatedFrame) ∧
    (2 ≤ n.toNat → n.toNat ≤ 256 → b 0 = s.cfg.startByte → n.toNat < l + 8 → answers .truncatedFrame) ∧
    (l + 8 ≤ n.toNat → n.toNat ≤ 256 → b 0 = s.cfg.startByte →
      (b (7 + l) ≠ s.cfg.endByte → answers .framingError) ∧
      (b (7 + l) = s.cfg.endByte → xorAll (bytes.take (6 + l)) ≠ b (6 + l) → answers .checksumError) ∧
      (b (7 + l) = s.cfg.endByte → xorAll (bytes.take (6 + l)) = b (6 + l) →
        ((¬∃ pairs, CutsInto s.blk.slots region pairs) → answers .framingError) ∧
        ((∃ pairs, CutsInto s.blk.slots region pairs) → exec (.decode n) s = .next (s.respond
          ⟨.ok, BitVec.ofNat 64 ((b 2).toNat + 2 ^ 8 * (b 3).toNat + 2 ^ 16 * (b 4).toNat + 2 ^ 24 * (b 5).toNat),
            region⟩))))

/-- R226: a region is cut into pairs in one way only, and `parsePairs` finds it exactly when there is one. The
spec's own, not the source's words: R226 (decision D12). -/
def Obligations.PairRegionIsCutInOneWay : Prop :=
  ∀ (slots : List Slot) (region : List Byte) (pairs : List Pair),
    parsePairs slots region.length region = some pairs ↔ CutsInto slots region pairs

/-- R110: identifier 0 is never registered, never submitted and never parsed. -/
def Obligations.ReservedIdIsNeverAccepted : Prop :=
  ∀ s : State, NoZeroId s.blk.slots →
    (∀ (c : RateClass) (vt : VarType), exec (.register 0 (some c) vt) s = .next (s.respond ⟨.invalidId, 0, []⟩)) ∧
    (∀ n : BitVec 9, exec (.submit 0 n) s = .next (s.respond ⟨.unknownId, 0, []⟩)) ∧
    (∀ (front rest : List Byte) (pairs : List Pair), CutsInto s.blk.slots front pairs →
      parsePairs s.blk.slots (front ++ 0 :: rest).length (front ++ 0 :: rest) = none)

/-- R234: DECODE of a frame that ENCODE gave returns OK with the time modulo `2^32` and the (identifier, payload)
pairs of the pending list in the same order. The spec's own, not the source's words: R234 (derived). -/
def Obligations.DecodeReadsBackEncode : Prop :=
  ∀ (s : State) (c : RateClass) (t : Time) (f : List Byte),
    encodeList s.cfg (pendingList c s.blk.slots) t = some f →
    decodeFrame s.cfg s.blk.slots f = .ok
      { time := t.setWidth 32
        region := (pendingList c s.blk.slots).flatMap (fun e => e.id :: e.payload)
        pairs := (pendingList c s.blk.slots).map fun e => (e.id, e.payload) } ∧
    let s' : State := { s with io := { s.io with port := { s.io.port with wbuf := f } } }
    exec (.decode (BitVec.ofNat 9 f.length)) s' = .next (s'.respond
      ⟨.ok, (t.setWidth 32).setWidth 64, (pendingList c s.blk.slots).flatMap fun e => e.id :: e.payload⟩)

/-- R228: bytes after END are not looked at; the frame occupies `rlen + 8` bytes. The spec's own, not the source's
words: R228 (decision D12). -/
def Obligations.TrailingBytesAreIgnored : Prop :=
  ∀ (cfg : Config) (slots : List Slot) (bytes extra : List Byte) (d : Decoded),
    decodeFrame cfg slots bytes = .ok d →
    d.region.length + 8 ≤ bytes.length ∧ decodeFrame cfg slots (bytes ++ extra) = .ok d ∧
    decodeFrame cfg slots (bytes.take (d.region.length + 8)) = .ok d

/-- R236: one flipped bit in a frame from the encoder: in TIMESTAMP, IDs, payloads or CHECKSUM it gives
`ChecksumError`, in START or END `FramingError`, in LENGTH upwards `TruncatedFrame`. The spec's own, not the
source's words: R236 (derived). -/
def Obligations.SingleBitFlipIsDetected : Prop :=
  ∀ (cfg : Config) (c : RateClass) (slots slots' : List Slot) (t : Time) (f : List Byte) (i b : Nat),
    encodeList cfg (pendingList c slots) t = some f → i < f.length → b < 8 →
    let flipped := f.set i (byteAt f i ^^^ BitVec.twoPow 8 b)
    (2 ≤ i → i + 1 < f.length → decodeFrame cfg slots' flipped = .error .checksumError) ∧
    (i = 0 ∨ i + 1 = f.length → decodeFrame cfg slots' flipped = .error .framingError) ∧
    (i = 1 → (byteAt f 1).getLsbD b = false → decodeFrame cfg slots' flipped = .error .truncatedFrame)

/-- R238: the same bit flipped in two TIMESTAMP bytes of an accepted frame is not detected. -/
def Obligations.EvenColumnFlipIsAccepted : Prop :=
  ∀ (cfg : Config) (slots : List Slot) (f : List Byte) (d : Decoded) (i j b : Nat),
    decodeFrame cfg slots f = .ok d → 2 ≤ i → i < j → j ≤ 5 → b < 8 →
    let g := (f.set i (byteAt f i ^^^ BitVec.twoPow 8 b)).set j (byteAt f j ^^^ BitVec.twoPow 8 b)
    ∃ d', decodeFrame cfg slots g = .ok d' ∧ d'.region = d.region ∧ d'.pairs = d.pairs ∧ d'.time ≠ d.time

/-- R226, R230 (g): DECODE depends on the registry only through the identifiers and types of the occupied slots: not
on classes, payloads or dirty flags. The spec's own, not the source's words: R226 (decision D12); R230 (derived). -/
def Obligations.DecodeReadsOnlyDeclarations : Prop :=
  ∀ (cfg : Config) (slots slots' : List Slot) (bytes : List Byte), declarations slots = declarations slots' →
    decodeFrame cfg slots bytes = decodeFrame cfg slots' bytes

/-! ### Scheduler -/

/-- R254, R255: TICK: the walk, the response, and what becomes of a class in each of the five cases. -/
def Obligations.TickFollowsItsRule : Prop :=
  (∀ cw : CommandWord, cw.extractLsb' 24 8 = 0x08 → decode cw = .ok .tick) ∧
  (∀ s : State,
    let a := tickClass .veryFast s
    let b := tickClass .fast a.2
    let d := tickClass .slow b.2
    exec .tick s = .next (d.2.respond
      { status := if .frameTooLarge ∈ [a.1, b.1, d.1] then .frameTooLarge else .ok
        rdata := BitVec.ofNat 64 (a.1.code + 16 * b.1.code + 256 * d.1.code)
        rbytes := [] })) ∧
  ∀ (c : RateClass) (s : State) (a : Raw) (rest : List Raw) (n : Nat),
    Answered Config.freeRaw s.io.raws s.io.nextFree a rest n →
    let raw := s.cfg.rawWidth.sample a
    let acc := accAfter s.cfg.rawWidth s.blk.lastRaw s.blk.accHigh raw
    let t := acc + zext64 raw
    let elapsed := t - s.blk.lastSent.get c
    let p := pendingList c s.blk.slots
    (elapsed < s.cfg.interval.get c → tickClass c s = (.notDue,
      { cfg := s.cfg, blk := { s.blk with lastRaw := raw, accHigh := acc }
        io := { s.io with raws := rest, nextFree := n, calls := s.io.calls ++ [.readRaw raw] } })) ∧
    (s.cfg.interval.get c ≤ elapsed → p = [] → ∀ (a2 : Raw) (rest2 : List Raw) (n2 : Nat),
      Answered Config.freeRaw rest n a2 rest2 n2 →
      let raw2 := s.cfg.rawWidth.sample a2
      let acc2 := accAfter s.cfg.rawWidth raw acc raw2
      tickClass c s = (.emptyAdvanced,
        { cfg := s.cfg
          blk := { slots := s.blk.slots, lastRaw := raw2, accHigh := acc2
                   lastSent := s.blk.lastSent.set c (acc2 + zext64 raw2), sched := s.blk.sched.set c .idle }
          io := { s.io with
            raws := rest2, nextFree := n2, calls := s.io.calls ++ [.readRaw raw, .readRaw raw2] } })) ∧
    (s.cfg.interval.get c ≤ elapsed → p ≠ [] → encodeList s.cfg p t = none → tickClass c s = (.frameTooLarge,
      { cfg := s.cfg
        blk := { s.blk with lastRaw := raw, accHigh := acc, sched := s.blk.sched.set c .idle }
        io := { s.io with raws := rest, nextFree := n, calls := s.io.calls ++ [.readRaw raw] } })) ∧
    (s.cfg.interval.get c ≤ elapsed → p ≠ [] → ∀ (f : List Byte) (trest : List Bool) (n2 : Nat),
      encodeList s.cfg p t = some f → Answered Config.freeTransmit s.io.txs n false trest n2 →
      tickClass c s = (.transmitFailed,
        { cfg := s.cfg
          blk := { s.blk with lastRaw := raw, accHigh := acc, sched := s.blk.sched.set c .idle }
          io := { s.io with
            raws := rest, txs := trest, nextFree := n2
            calls := s.io.calls ++ [.readRaw raw, .transmit f false] } })) ∧
    (s.cfg.interval.get c ≤ elapsed → p ≠ [] → ∀ (f : List Byte) (trest : List Bool) (n2 : Nat) (a2 : Raw)
      (rest2 : List Raw) (n3 : Nat), encodeList s.cfg p t = some f →
      Answered Config.freeTransmit s.io.txs n true trest n2 → Answered Config.freeRaw rest n2 a2 rest2 n3 →
      let raw2 := s.cfg.rawWidth.sample a2
      let acc2 := accAfter s.cfg.rawWidth raw acc raw2
      tickClass c s = (.sent,
        { cfg := s.cfg
          blk := { slots := clearSlots c s.blk.slots, lastRaw := raw2, accHigh := acc2
                   lastSent := s.blk.lastSent.set c (acc2 + zext64 raw2), sched := s.blk.sched.set c .idle }
          io := { s.io with
            raws := rest2, txs := trest, nextFree := n3
            calls := s.io.calls ++ [.readRaw raw, .transmit f true, .readRaw raw2] } }))

/-- R260, R256, R313: a TICK polls the raw counter once per class and once more for each class that ends in
EmptyAdvanced or Sent, and calls `transmit` once for each class that ends in Sent or TransmitFailed. The spec's own,
not the source's words: R260 (decision D15). -/
def Obligations.TickCallsAreCounted : Prop :=
  ∀ s : State, ∃ t cs, exec .tick s = .next t ∧ t.io.calls = s.io.calls ++ cs ∧
    let r := (tickWalk s).results
    let rs := [r.veryFast, r.fast, r.slow]
    cs.countP Call.isRead = 3 + rs.countP (fun x => decide (x = .emptyAdvanced ∨ x = .sent)) ∧
    cs.countP (fun c => !c.isRead) = rs.countP (fun x => decide (x = .sent ∨ x = .transmitFailed)) ∧
    3 ≤ cs.countP Call.isRead ∧ cs.countP Call.isRead ≤ 6 ∧ cs.countP (fun c => !c.isRead) ≤ 3

/-- R266: TICK leaves every class Idle. The spec's own, not the source's words: R266 (derived). -/
def Obligations.TickLeavesEveryClassIdle : Prop :=
  ∀ s : State, AllIdle s.blk → ∃ t, exec .tick s = .next t ∧ AllIdle t.blk

/-- R66, R255: what TICK leaves unchanged. The spec's own, not the source's words: R66 (derived). -/
def Obligations.TickFrame : Prop :=
  ∀ s : State, ∃ t r, exec .tick s = .next t ∧ t.io.responses = s.io.responses ++ [r] ∧
    t.cfg = s.cfg ∧ t.blk.slots.map Slot.withoutDirty = s.blk.slots.map Slot.withoutDirty ∧
    t.io.resetReq = s.io.resetReq ∧ t.io.mainQ = s.io.mainQ ∧ t.io.intQ = s.io.intQ ∧ t.io.picks = s.io.picks ∧
    t.io.port = s.io.port ∧ t.io.raws <:+ s.io.raws ∧ t.io.txs <:+ s.io.txs ∧ s.io.nextFree ≤ t.io.nextFree

/-- R261, R262: a class that ends a TICK in NotDue, FrameTooLarge or TransmitFailed keeps its slots, values and dirty
flags, and its baseline. EmptyAdvanced is not among them: there nothing is sent and the baseline advances (R258). The
spec's own, not the source's words: R261 (decision D16). -/
def Obligations.UnsentClassKeepsItsValues : Prop :=
  ∀ s : State, ∃ t, exec .tick s = .next t ∧ ∀ c : RateClass, ((tickWalk s).results.get c).Unsent →
    t.blk.lastSent.get c = s.blk.lastSent.get c ∧ pendingList c t.blk.slots = pendingList c s.blk.slots ∧
    ∀ (k : Nat) (sl : Slot), s.blk.slots[k]? = some sl → sl.rclass = c → t.blk.slots[k]? = some sl

/-- R259: a class that ends in Sent had one frame, the frame of its whole pending list, accepted by the transport between
its two polls, and then exactly its own slots are clean. -/
def Obligations.SentClassIsClearedAfterConfirm : Prop :=
  ∀ (c : RateClass) (s t : State), tickClass c s = (.sent, t) →
    ∃ (f : List Byte) (r1 r2 : Raw),
      t.io.calls = s.io.calls ++ [.readRaw r1, .transmit f true, .readRaw r2] ∧
      pendingList c s.blk.slots ≠ [] ∧ encodeList s.cfg (pendingList c s.blk.slots) (now s).1 = some f ∧
      pendingList c t.blk.slots = [] ∧ (∀ c' ≠ c, pendingList c' t.blk.slots = pendingList c' s.blk.slots) ∧
      t.blk.lastSent.get c = t.blk.accHigh + zext64 t.blk.lastRaw ∧ t.blk.lastRaw = r2

/-- R263: what happens to one class leaves everything that decides the evaluation of another class alone. -/
def Obligations.ClassesAreIndependent : Prop :=
  ∀ (c c' : RateClass) (s : State), c' ≠ c →
    let t := (tickClass c s).2
    t.cfg = s.cfg ∧ pendingList c' t.blk.slots = pendingList c' s.blk.slots ∧
    t.blk.lastSent.get c' = s.blk.lastSent.get c' ∧ t.blk.sched.get c' = s.blk.sched.get c'

/-- R344, R261: a class whose pairs exceed 248 bytes stays so, and stays unsent, through every operation but CLEAR
of it. The spec's own, not the source's words: R261 (decision D16); R344 (derived). -/
def Obligations.OversizedClassStaysUnsent : Prop :=
  ∀ (c : RateClass) (i : Instr) (s t : State), 249 ≤ regionLength (pendingList c s.blk.slots) →
    i ≠ .clear (some c) → exec i s = .next t →
    249 ≤ regionLength (pendingList c t.blk.slots) ∧ t.blk.lastSent.get c = s.blk.lastSent.get c ∧
    (i = .tick → (tickWalk s).results.get c = .notDue ∨ (tickWalk s).results.get c = .frameTooLarge)

/-- R313: every frame handed to the transport is 10 to 256 bytes long and well framed: every step keeps it so. -/
def Obligations.StepKeepsFramesWellFormed : Prop :=
  ∀ s t : State, FramesSent s → step s = .next t → FramesSent t

/-! ### The whole machine -/

/-- R23, R25, R27, R20: every step keeps the invariant. The spec's own, not the source's words: R25 (decision D21);
R23, R27 (derived). -/
def Obligations.StepKeepsInvariant : Prop := ∀ s t : State, MachineInv s → step s = .next t → MachineInv t

/-- R23, R35: the machine's invariant holds after reset, for every configuration, and so does `FramesSent`: every frame
handed to the transport is well framed (R313). The first rests on the reset values of R35, the second on the call record
that the model's choice leaves empty at reset (log entry 5). The spec's own, not the source's words: R23 (derived); R35
(decision D18). -/
def Obligations.ResetMeetsInvariant : Prop := ∀ c : Config, MachineInv (State.resetWith c) ∧ FramesSent (State.resetWith c)

/-- R100, R106, R290, R298: every command is answered once, with a status of its own list; with an error status
`rbytes` is empty and, but for TICK, `rdata` is 0. The spec's own, not the source's words: R100 (decision D8), R106
(decision D7), R298 (decision D10). -/
def Obligations.EveryCommandAnswersOnce : Prop :=
  ∀ (i : Instr) (s : State), ∃ t r, exec i s = .next t ∧ t.io.responses = s.io.responses ++ [r] ∧
    r.status ∈ mayAnswer i ∧ (r.status ≠ .ok → r.rbytes = [] ∧ (i ≠ .tick → r.rdata = 0))

/-- R296: an error other than TICK's changes nothing but the response. The spec's own, not the source's words: R296
(derived). -/
def Obligations.ErrorsChangeNothing : Prop :=
  ∀ (i : Instr) (s : State), i ≠ .tick → ∃ t r, exec i s = .next t ∧ t.io.responses = s.io.responses ++ [r] ∧
    (r.status ≠ .ok → t = s.respond { status := r.status, rdata := 0, rbytes := [] })

/-- R69: PENDING, ENCODE and DECODE change no architectural state and make no call, and answer the same when
repeated. The spec's own, not the source's words: R69 (decision D24). -/
def Obligations.QueriesChangeNothingAndRepeat : Prop :=
  ∀ (i : Instr) (s : State), ((∃ c, i = .pending c) ∨ (∃ c, i = .encode c) ∨ ∃ n, i = .decode n) →
    ∃ r, exec i s = .next (s.respond r) ∧ exec i (s.respond r) = .next ((s.respond r).respond r)

/-- R297: the status of an operation is not remembered: no operation depends on the responses given before. -/
def Obligations.StatusIsNotRemembered : Prop :=
  ∀ (i : Instr) (s : State) (old : List Response), ∃ t r, exec i s = .next t ∧
    exec i { s with io := { s.io with responses := old } } =
      .next { t with io := { t.io with responses := old ++ [r] } } ∧ t.io.responses = s.io.responses ++ [r]

/-- R27, R28, R29, R313: only NOW and TICK touch the time source and call outward, only TICK writes baselines and
scheduler states, only TICK calls `transmit`. The spec's own, not the source's words: R29 (decision D8); R27
(derived). -/
def Obligations.OnlyTimeAndTickTouchControlState : Prop :=
  ∀ (i : Instr) (s t : State), exec i s = .next t →
    (i ≠ .tick → t.blk.lastSent = s.blk.lastSent ∧ t.blk.sched = s.blk.sched ∧ t.io.txs = s.io.txs) ∧
    (i ≠ .tick → i ≠ .now → t.blk.lastRaw = s.blk.lastRaw ∧ t.blk.accHigh = s.blk.accHigh ∧ t.io.calls = s.io.calls)

/-- R23 (d), R26, R154: no operation frees, renames, retypes or moves a registered variable. The spec's own, not the
source's words: R23, R154 (derived). -/
def Obligations.RegisteredVariablesStay : Prop :=
  ∀ (i : Instr) (s t : State) (k : Nat) (sl : Slot), exec i s = .next t → s.blk.slots[k]? = some sl →
    sl.occupied = true → ∃ sl', t.blk.slots[k]? = some sl' ∧ sl'.occupied = true ∧ sl'.id = sl.id ∧
      sl'.vtype = sl.vtype ∧ sl'.rclass = sl.rclass

/-- R75: only SUBMIT writes payload bytes, and only those of the slot that holds its identifier. The spec's own, not
the source's words: R75 (derived). -/
def Obligations.OnlySubmitWritesPayloads : Prop :=
  ∀ (i : Instr) (s t : State) (k : Nat) (sl : Slot), exec i s = .next t → s.blk.slots[k]? = some sl →
    (∀ n, i ≠ .submit sl.id n) → ∃ sl', t.blk.slots[k]? = some sl' ∧ sl'.payload = sl.payload
end

