-- ==== Sys2Proof/Laws/State.lean ====
section
/-! SUPPORT. One lemma per field per update of the state, so that no proof unfolds a record update. -/

namespace Sys2Proof

@[simp] theorem frameOverhead_eq : frameOverhead = 8 := rfl

@[simp] theorem maxPacket_eq : maxPacket = 256 := rfl

@[simp] theorem PerClass.get_set_same {α : Type} (x : PerClass α) (c : RateClass) (v : α) : (x.set c v).get c = v := by
  cases c <;> rfl

theorem PerClass.get_set_other {α : Type} (x : PerClass α) {c c' : RateClass} (v : α) (h : c' ≠ c) :
    (x.set c v).get c' = x.get c' := by
  cases c <;> cases c' <;> first | rfl | exact absurd rfl h

theorem PerClass.ext_get {α : Type} {x y : PerClass α} (h : ∀ c, x.get c = y.get c) : x = y := by
  obtain ⟨a, b, d⟩ := x
  obtain ⟨a', b', d'⟩ := y
  have h1 := h .veryFast
  have h2 := h .fast
  have h3 := h .slow
  simp only [PerClass.get] at h1 h2 h3
  rw [h1, h2, h3]

namespace Machine

/-! respond -/

@[simp] theorem respond_cfg (r : Response) (s : State) : (s.respond r).cfg = s.cfg := rfl
@[simp] theorem respond_blk (r : Response) (s : State) : (s.respond r).blk = s.blk := rfl
@[simp] theorem respond_io_resetReq (r : Response) (s : State) : (s.respond r).io.resetReq = s.io.resetReq := rfl
@[simp] theorem respond_io_mainQ (r : Response) (s : State) : (s.respond r).io.mainQ = s.io.mainQ := rfl
@[simp] theorem respond_io_intQ (r : Response) (s : State) : (s.respond r).io.intQ = s.io.intQ := rfl
@[simp] theorem respond_io_picks (r : Response) (s : State) : (s.respond r).io.picks = s.io.picks := rfl
@[simp] theorem respond_io_raws (r : Response) (s : State) : (s.respond r).io.raws = s.io.raws := rfl
@[simp] theorem respond_io_txs (r : Response) (s : State) : (s.respond r).io.txs = s.io.txs := rfl
@[simp] theorem respond_io_nextFree (r : Response) (s : State) : (s.respond r).io.nextFree = s.io.nextFree := rfl
@[simp] theorem respond_io_port (r : Response) (s : State) : (s.respond r).io.port = s.io.port := rfl
@[simp] theorem respond_io_calls (r : Response) (s : State) : (s.respond r).io.calls = s.io.calls := rfl
@[simp] theorem respond_io_responses (r : Response) (s : State) : (s.respond r).io.responses = s.io.responses ++ [r] := rfl

/-! succeed -/

@[simp] theorem succeed_cfg (d : Time) (b : List Byte) (s : State) : (s.succeed d b).cfg = s.cfg := rfl
@[simp] theorem succeed_blk (d : Time) (b : List Byte) (s : State) : (s.succeed d b).blk = s.blk := rfl
@[simp] theorem succeed_io_resetReq (d : Time) (b : List Byte) (s : State) : (s.succeed d b).io.resetReq = s.io.resetReq := rfl
@[simp] theorem succeed_io_mainQ (d : Time) (b : List Byte) (s : State) : (s.succeed d b).io.mainQ = s.io.mainQ := rfl
@[simp] theorem succeed_io_intQ (d : Time) (b : List Byte) (s : State) : (s.succeed d b).io.intQ = s.io.intQ := rfl
@[simp] theorem succeed_io_picks (d : Time) (b : List Byte) (s : State) : (s.succeed d b).io.picks = s.io.picks := rfl
@[simp] theorem succeed_io_raws (d : Time) (b : List Byte) (s : State) : (s.succeed d b).io.raws = s.io.raws := rfl
@[simp] theorem succeed_io_txs (d : Time) (b : List Byte) (s : State) : (s.succeed d b).io.txs = s.io.txs := rfl
@[simp] theorem succeed_io_nextFree (d : Time) (b : List Byte) (s : State) : (s.succeed d b).io.nextFree = s.io.nextFree := rfl
@[simp] theorem succeed_io_port (d : Time) (b : List Byte) (s : State) : (s.succeed d b).io.port = s.io.port := rfl
@[simp] theorem succeed_io_calls (d : Time) (b : List Byte) (s : State) : (s.succeed d b).io.calls = s.io.calls := rfl
@[simp] theorem succeed_io_responses (d : Time) (b : List Byte) (s : State) : (s.succeed d b).io.responses = s.io.responses ++ [{ status := .ok, rdata := d, rbytes := b }] := rfl

/-! raise -/

@[simp] theorem raise_cfg (e : Status) (s : State) : (s.raise e).cfg = s.cfg := rfl
@[simp] theorem raise_blk (e : Status) (s : State) : (s.raise e).blk = s.blk := rfl
@[simp] theorem raise_io_resetReq (e : Status) (s : State) : (s.raise e).io.resetReq = s.io.resetReq := rfl
@[simp] theorem raise_io_mainQ (e : Status) (s : State) : (s.raise e).io.mainQ = s.io.mainQ := rfl
@[simp] theorem raise_io_intQ (e : Status) (s : State) : (s.raise e).io.intQ = s.io.intQ := rfl
@[simp] theorem raise_io_picks (e : Status) (s : State) : (s.raise e).io.picks = s.io.picks := rfl
@[simp] theorem raise_io_raws (e : Status) (s : State) : (s.raise e).io.raws = s.io.raws := rfl
@[simp] theorem raise_io_txs (e : Status) (s : State) : (s.raise e).io.txs = s.io.txs := rfl
@[simp] theorem raise_io_nextFree (e : Status) (s : State) : (s.raise e).io.nextFree = s.io.nextFree := rfl
@[simp] theorem raise_io_port (e : Status) (s : State) : (s.raise e).io.port = s.io.port := rfl
@[simp] theorem raise_io_calls (e : Status) (s : State) : (s.raise e).io.calls = s.io.calls := rfl
@[simp] theorem raise_io_responses (e : Status) (s : State) : (s.raise e).io.responses = s.io.responses ++ [{ status := e, rdata := 0, rbytes := [] }] := rfl

/-! setSlots -/

@[simp] theorem setSlots_cfg (x : List Slot) (s : State) : (s.setSlots x).cfg = s.cfg := rfl
@[simp] theorem setSlots_blk_slots (x : List Slot) (s : State) : (s.setSlots x).blk.slots = x := rfl
@[simp] theorem setSlots_blk_lastRaw (x : List Slot) (s : State) : (s.setSlots x).blk.lastRaw = s.blk.lastRaw := rfl
@[simp] theorem setSlots_blk_accHigh (x : List Slot) (s : State) : (s.setSlots x).blk.accHigh = s.blk.accHigh := rfl
@[simp] theorem setSlots_blk_lastSent (x : List Slot) (s : State) : (s.setSlots x).blk.lastSent = s.blk.lastSent := rfl
@[simp] theorem setSlots_blk_sched (x : List Slot) (s : State) : (s.setSlots x).blk.sched = s.blk.sched := rfl
@[simp] theorem setSlots_io (x : List Slot) (s : State) : (s.setSlots x).io = s.io := rfl

/-! setTime -/

@[simp] theorem setTime_cfg (r : Raw) (a : Time) (s : State) : (s.setTime r a).cfg = s.cfg := rfl
@[simp] theorem setTime_blk_slots (r : Raw) (a : Time) (s : State) : (s.setTime r a).blk.slots = s.blk.slots := rfl
@[simp] theorem setTime_blk_lastRaw (r : Raw) (a : Time) (s : State) : (s.setTime r a).blk.lastRaw = r := rfl
@[simp] theorem setTime_blk_accHigh (r : Raw) (a : Time) (s : State) : (s.setTime r a).blk.accHigh = a := rfl
@[simp] theorem setTime_blk_lastSent (r : Raw) (a : Time) (s : State) : (s.setTime r a).blk.lastSent = s.blk.lastSent := rfl
@[simp] theorem setTime_blk_sched (r : Raw) (a : Time) (s : State) : (s.setTime r a).blk.sched = s.blk.sched := rfl
@[simp] theorem setTime_io (r : Raw) (a : Time) (s : State) : (s.setTime r a).io = s.io := rfl

/-! setLastSent -/

@[simp] theorem setLastSent_cfg (c : RateClass) (t : Time) (s : State) : (s.setLastSent c t).cfg = s.cfg := rfl
@[simp] theorem setLastSent_blk_slots (c : RateClass) (t : Time) (s : State) : (s.setLastSent c t).blk.slots = s.blk.slots := rfl
@[simp] theorem setLastSent_blk_lastRaw (c : RateClass) (t : Time) (s : State) : (s.setLastSent c t).blk.lastRaw = s.blk.lastRaw := rfl
@[simp] theorem setLastSent_blk_accHigh (c : RateClass) (t : Time) (s : State) : (s.setLastSent c t).blk.accHigh = s.blk.accHigh := rfl
@[simp] theorem setLastSent_blk_lastSent (c : RateClass) (t : Time) (s : State) : (s.setLastSent c t).blk.lastSent = s.blk.lastSent.set c t := rfl
@[simp] theorem setLastSent_blk_sched (c : RateClass) (t : Time) (s : State) : (s.setLastSent c t).blk.sched = s.blk.sched := rfl
@[simp] theorem setLastSent_io (c : RateClass) (t : Time) (s : State) : (s.setLastSent c t).io = s.io := rfl

/-! setSched -/

@[simp] theorem setSched_cfg (c : RateClass) (v : SchedState) (s : State) : (s.setSched c v).cfg = s.cfg := rfl
@[simp] theorem setSched_blk_slots (c : RateClass) (v : SchedState) (s : State) : (s.setSched c v).blk.slots = s.blk.slots := rfl
@[simp] theorem setSched_blk_lastRaw (c : RateClass) (v : SchedState) (s : State) : (s.setSched c v).blk.lastRaw = s.blk.lastRaw := rfl
@[simp] theorem setSched_blk_accHigh (c : RateClass) (v : SchedState) (s : State) : (s.setSched c v).blk.accHigh = s.blk.accHigh := rfl
@[simp] theorem setSched_blk_lastSent (c : RateClass) (v : SchedState) (s : State) : (s.setSched c v).blk.lastSent = s.blk.lastSent := rfl
@[simp] theorem setSched_blk_sched (c : RateClass) (v : SchedState) (s : State) : (s.setSched c v).blk.sched = s.blk.sched.set c v := rfl
@[simp] theorem setSched_io (c : RateClass) (v : SchedState) (s : State) : (s.setSched c v).io = s.io := rfl

/-! clearClass -/

@[simp] theorem clearClass_cfg (c : RateClass) (s : State) : (clearClass c s).cfg = s.cfg := rfl
@[simp] theorem clearClass_blk_slots (c : RateClass) (s : State) : (clearClass c s).blk.slots = clearSlots c s.blk.slots := rfl
@[simp] theorem clearClass_blk_lastRaw (c : RateClass) (s : State) : (clearClass c s).blk.lastRaw = s.blk.lastRaw := rfl
@[simp] theorem clearClass_blk_accHigh (c : RateClass) (s : State) : (clearClass c s).blk.accHigh = s.blk.accHigh := rfl
@[simp] theorem clearClass_blk_lastSent (c : RateClass) (s : State) : (clearClass c s).blk.lastSent = s.blk.lastSent := rfl
@[simp] theorem clearClass_blk_sched (c : RateClass) (s : State) : (clearClass c s).blk.sched = s.blk.sched := rfl
@[simp] theorem clearClass_io (c : RateClass) (s : State) : (clearClass c s).io = s.io := rfl

/-! resetEvent -/

@[simp] theorem resetEvent_cfg (s : State) : (s.resetEvent).cfg = s.cfg := rfl
@[simp] theorem resetEvent_blk (s : State) : (s.resetEvent).blk = Block.reset s.cfg := rfl
@[simp] theorem resetEvent_io_resetReq (s : State) : (s.resetEvent).io.resetReq = false := rfl
@[simp] theorem resetEvent_io_mainQ (s : State) : (s.resetEvent).io.mainQ = s.io.mainQ := rfl
@[simp] theorem resetEvent_io_intQ (s : State) : (s.resetEvent).io.intQ = s.io.intQ := rfl
@[simp] theorem resetEvent_io_picks (s : State) : (s.resetEvent).io.picks = s.io.picks := rfl
@[simp] theorem resetEvent_io_raws (s : State) : (s.resetEvent).io.raws = s.io.raws := rfl
@[simp] theorem resetEvent_io_txs (s : State) : (s.resetEvent).io.txs = s.io.txs := rfl
@[simp] theorem resetEvent_io_nextFree (s : State) : (s.resetEvent).io.nextFree = s.io.nextFree := rfl
@[simp] theorem resetEvent_io_port (s : State) : (s.resetEvent).io.port = s.io.port := rfl
@[simp] theorem resetEvent_io_calls (s : State) : (s.resetEvent).io.calls = s.io.calls := rfl
@[simp] theorem resetEvent_io_responses (s : State) : (s.resetEvent).io.responses = s.io.responses := rfl

/-! takeMain -/

@[simp] theorem takeMain_cfg (m : Transaction) (q : List Transaction) (s : State) : (s.takeMain m q).cfg = s.cfg := rfl
@[simp] theorem takeMain_blk (m : Transaction) (q : List Transaction) (s : State) : (s.takeMain m q).blk = s.blk := rfl
@[simp] theorem takeMain_io_resetReq (m : Transaction) (q : List Transaction) (s : State) : (s.takeMain m q).io.resetReq = s.io.resetReq := rfl
@[simp] theorem takeMain_io_mainQ (m : Transaction) (q : List Transaction) (s : State) : (s.takeMain m q).io.mainQ = q := rfl
@[simp] theorem takeMain_io_intQ (m : Transaction) (q : List Transaction) (s : State) : (s.takeMain m q).io.intQ = s.io.intQ := rfl
@[simp] theorem takeMain_io_picks (m : Transaction) (q : List Transaction) (s : State) : (s.takeMain m q).io.picks = s.io.picks := rfl
@[simp] theorem takeMain_io_raws (m : Transaction) (q : List Transaction) (s : State) : (s.takeMain m q).io.raws = s.io.raws := rfl
@[simp] theorem takeMain_io_txs (m : Transaction) (q : List Transaction) (s : State) : (s.takeMain m q).io.txs = s.io.txs := rfl
@[simp] theorem takeMain_io_nextFree (m : Transaction) (q : List Transaction) (s : State) : (s.takeMain m q).io.nextFree = s.io.nextFree := rfl
@[simp] theorem takeMain_io_port (m : Transaction) (q : List Transaction) (s : State) : (s.takeMain m q).io.port = m := rfl
@[simp] theorem takeMain_io_calls (m : Transaction) (q : List Transaction) (s : State) : (s.takeMain m q).io.calls = s.io.calls := rfl
@[simp] theorem takeMain_io_responses (m : Transaction) (q : List Transaction) (s : State) : (s.takeMain m q).io.responses = s.io.responses := rfl

/-! takeInt -/

@[simp] theorem takeInt_cfg (m : Transaction) (q : List Transaction) (s : State) : (s.takeInt m q).cfg = s.cfg := rfl
@[simp] theorem takeInt_blk (m : Transaction) (q : List Transaction) (s : State) : (s.takeInt m q).blk = s.blk := rfl
@[simp] theorem takeInt_io_resetReq (m : Transaction) (q : List Transaction) (s : State) : (s.takeInt m q).io.resetReq = s.io.resetReq := rfl
@[simp] theorem takeInt_io_mainQ (m : Transaction) (q : List Transaction) (s : State) : (s.takeInt m q).io.mainQ = s.io.mainQ := rfl
@[simp] theorem takeInt_io_intQ (m : Transaction) (q : List Transaction) (s : State) : (s.takeInt m q).io.intQ = q := rfl
@[simp] theorem takeInt_io_picks (m : Transaction) (q : List Transaction) (s : State) : (s.takeInt m q).io.picks = s.io.picks := rfl
@[simp] theorem takeInt_io_raws (m : Transaction) (q : List Transaction) (s : State) : (s.takeInt m q).io.raws = s.io.raws := rfl
@[simp] theorem takeInt_io_txs (m : Transaction) (q : List Transaction) (s : State) : (s.takeInt m q).io.txs = s.io.txs := rfl
@[simp] theorem takeInt_io_nextFree (m : Transaction) (q : List Transaction) (s : State) : (s.takeInt m q).io.nextFree = s.io.nextFree := rfl
@[simp] theorem takeInt_io_port (m : Transaction) (q : List Transaction) (s : State) : (s.takeInt m q).io.port = m := rfl
@[simp] theorem takeInt_io_calls (m : Transaction) (q : List Transaction) (s : State) : (s.takeInt m q).io.calls = s.io.calls := rfl
@[simp] theorem takeInt_io_responses (m : Transaction) (q : List Transaction) (s : State) : (s.takeInt m q).io.responses = s.io.responses := rfl

/-! readRaw -/

@[simp] theorem readRaw_cfg (s : State) : ((readRaw s).2).cfg = s.cfg := rfl
@[simp] theorem readRaw_blk (s : State) : ((readRaw s).2).blk = s.blk := rfl
@[simp] theorem readRaw_io_resetReq (s : State) : ((readRaw s).2).io.resetReq = s.io.resetReq := rfl
@[simp] theorem readRaw_io_mainQ (s : State) : ((readRaw s).2).io.mainQ = s.io.mainQ := rfl
@[simp] theorem readRaw_io_intQ (s : State) : ((readRaw s).2).io.intQ = s.io.intQ := rfl
@[simp] theorem readRaw_io_picks (s : State) : ((readRaw s).2).io.picks = s.io.picks := rfl
@[simp] theorem readRaw_io_txs (s : State) : ((readRaw s).2).io.txs = s.io.txs := rfl
@[simp] theorem readRaw_io_port (s : State) : ((readRaw s).2).io.port = s.io.port := rfl
@[simp] theorem readRaw_io_calls (s : State) : ((readRaw s).2).io.calls = s.io.calls ++ [.readRaw (readRaw s).1] := rfl
@[simp] theorem readRaw_io_responses (s : State) : ((readRaw s).2).io.responses = s.io.responses := rfl

/-! transmit -/

@[simp] theorem transmit_cfg (f : List Byte) (s : State) : ((transmit f s).2).cfg = s.cfg := rfl
@[simp] theorem transmit_blk (f : List Byte) (s : State) : ((transmit f s).2).blk = s.blk := rfl
@[simp] theorem transmit_io_resetReq (f : List Byte) (s : State) : ((transmit f s).2).io.resetReq = s.io.resetReq := rfl
@[simp] theorem transmit_io_mainQ (f : List Byte) (s : State) : ((transmit f s).2).io.mainQ = s.io.mainQ := rfl
@[simp] theorem transmit_io_intQ (f : List Byte) (s : State) : ((transmit f s).2).io.intQ = s.io.intQ := rfl
@[simp] theorem transmit_io_picks (f : List Byte) (s : State) : ((transmit f s).2).io.picks = s.io.picks := rfl
@[simp] theorem transmit_io_raws (f : List Byte) (s : State) : ((transmit f s).2).io.raws = s.io.raws := rfl
@[simp] theorem transmit_io_port (f : List Byte) (s : State) : ((transmit f s).2).io.port = s.io.port := rfl
@[simp] theorem transmit_io_calls (f : List Byte) (s : State) : ((transmit f s).2).io.calls = s.io.calls ++ [.transmit f (transmit f s).1] := rfl
@[simp] theorem transmit_io_responses (f : List Byte) (s : State) : ((transmit f s).2).io.responses = s.io.responses := rfl

/-! pick -/

@[simp] theorem pick_cfg (s : State) : (s.pick.2).cfg = s.cfg := rfl
@[simp] theorem pick_blk (s : State) : (s.pick.2).blk = s.blk := rfl
@[simp] theorem pick_io_resetReq (s : State) : (s.pick.2).io.resetReq = s.io.resetReq := rfl
@[simp] theorem pick_io_mainQ (s : State) : (s.pick.2).io.mainQ = s.io.mainQ := rfl
@[simp] theorem pick_io_intQ (s : State) : (s.pick.2).io.intQ = s.io.intQ := rfl
@[simp] theorem pick_io_raws (s : State) : (s.pick.2).io.raws = s.io.raws := rfl
@[simp] theorem pick_io_txs (s : State) : (s.pick.2).io.txs = s.io.txs := rfl
@[simp] theorem pick_io_port (s : State) : (s.pick.2).io.port = s.io.port := rfl
@[simp] theorem pick_io_calls (s : State) : (s.pick.2).io.calls = s.io.calls := rfl
@[simp] theorem pick_io_responses (s : State) : (s.pick.2).io.responses = s.io.responses := rfl

/-! now -/

@[simp] theorem now_cfg (s : State) : ((now s).2).cfg = s.cfg := rfl
@[simp] theorem now_blk_slots (s : State) : ((now s).2).blk.slots = s.blk.slots := rfl
@[simp] theorem now_blk_lastRaw (s : State) : ((now s).2).blk.lastRaw = (readRaw s).1 := rfl
@[simp] theorem now_blk_lastSent (s : State) : ((now s).2).blk.lastSent = s.blk.lastSent := rfl
@[simp] theorem now_blk_sched (s : State) : ((now s).2).blk.sched = s.blk.sched := rfl
@[simp] theorem now_io (s : State) : ((now s).2).io = (readRaw s).2.io := rfl

end Machine
end Sys2Proof
end

