-- ==== Sys2Proof/Laws/Registry.lean ====
section
/-! SUPPORT. What the registry operations do: `find`, `firstFree`, the three slot writes, REGISTER, SUBMIT, CLEAR. -/

namespace Sys2Proof.Machine

/-- `find(id) = k`: the slot holds the identifier and no earlier one does. -/
theorem find_eq_some_iff {slots : List Slot} {id : VarId} {k : Nat} :
    find slots id = some k ↔
      ∃ sl, slots[k]? = some sl ∧ sl.holds id = true ∧ ∀ j < k, ∀ x, slots[j]? = some x → x.holds id = false := by
  simp only [find, List.findIdx?_eq_some_iff_getElem]
  constructor
  · rintro ⟨hk, hp, hlt⟩
    refine ⟨slots[k], List.getElem?_eq_getElem hk, hp, fun j hj x hx => ?_⟩
    obtain ⟨hj', rfl⟩ := List.getElem?_eq_some_iff.1 hx
    simpa using hlt j hj
  · rintro ⟨sl, hk, hp, hlt⟩
    obtain ⟨hk', rfl⟩ := List.getElem?_eq_some_iff.1 hk
    exact ⟨hk', hp, fun j hj => by simpa using hlt j hj _ (List.getElem?_eq_getElem (by omega))⟩

theorem find_eq_none_iff {slots : List Slot} {id : VarId} :
    find slots id = none ↔ ∀ sl ∈ slots, sl.holds id = false := by
  simp [find, List.findIdx?_eq_none_iff]

/-- `firstFree`: the least index of an unoccupied slot. -/
theorem firstFree_eq_some_iff {slots : List Slot} {k : Nat} :
    firstFree slots = some k ↔
      ∃ sl, slots[k]? = some sl ∧ sl.occupied = false ∧ ∀ j < k, ∀ x, slots[j]? = some x → x.occupied = true := by
  simp only [firstFree, List.findIdx?_eq_some_iff_getElem]
  constructor
  · rintro ⟨hk, hp, hlt⟩
    refine ⟨slots[k], List.getElem?_eq_getElem hk, by simpa using hp, fun j hj x hx => ?_⟩
    obtain ⟨hj', rfl⟩ := List.getElem?_eq_some_iff.1 hx
    simpa using hlt j hj
  · rintro ⟨sl, hk, hp, hlt⟩
    obtain ⟨hk', rfl⟩ := List.getElem?_eq_some_iff.1 hk
    exact ⟨hk', by simpa using hp, fun j hj => by simpa using hlt j hj _ (List.getElem?_eq_getElem (by omega))⟩

theorem firstFree_eq_none_iff {slots : List Slot} :
    firstFree slots = none ↔ ∀ sl ∈ slots, sl.occupied = true := by
  simp [firstFree, List.findIdx?_eq_none_iff]

theorem slotAt_of_getElem? {slots : List Slot} {k : Nat} {sl : Slot} (h : slots[k]? = some sl) :
    slotAt slots k = sl := by
  simp [slotAt, List.getD, h]

@[simp] theorem holds_iff {sl : Slot} {id : VarId} : sl.holds id = true ↔ sl.occupied = true ∧ sl.id = id := by
  simp [Slot.holds]

theorem holds_eq_false_iff {sl : Slot} {id : VarId} : sl.holds id = false ↔ ¬(sl.occupied = true ∧ sl.id = id) := by
  rw [← holds_iff, Bool.not_eq_true]

@[simp] theorem declare_occupied (sl : Slot) (id : VarId) (vt : VarType) (c : RateClass) :
    (sl.declare id vt c).occupied = true := rfl
@[simp] theorem declare_id (sl : Slot) (id : VarId) (vt : VarType) (c : RateClass) : (sl.declare id vt c).id = id := rfl
@[simp] theorem declare_vtype (sl : Slot) (id : VarId) (vt : VarType) (c : RateClass) :
    (sl.declare id vt c).vtype = vt := rfl
@[simp] theorem declare_rclass (sl : Slot) (id : VarId) (vt : VarType) (c : RateClass) :
    (sl.declare id vt c).rclass = c := rfl
@[simp] theorem declare_payload (sl : Slot) (id : VarId) (vt : VarType) (c : RateClass) :
    (sl.declare id vt c).payload = sl.payload := rfl
@[simp] theorem declare_dirty (sl : Slot) (id : VarId) (vt : VarType) (c : RateClass) :
    (sl.declare id vt c).dirty = false := rfl

@[simp] theorem store_occupied (sl : Slot) (w : List Byte) : (sl.store w).occupied = sl.occupied := rfl
@[simp] theorem store_id (sl : Slot) (w : List Byte) : (sl.store w).id = sl.id := rfl
@[simp] theorem store_vtype (sl : Slot) (w : List Byte) : (sl.store w).vtype = sl.vtype := rfl
@[simp] theorem store_rclass (sl : Slot) (w : List Byte) : (sl.store w).rclass = sl.rclass := rfl
@[simp] theorem store_dirty (sl : Slot) (w : List Byte) : (sl.store w).dirty = true := rfl
@[simp] theorem store_holds (sl : Slot) (w : List Byte) (id : VarId) : (sl.store w).holds id = sl.holds id := rfl

@[simp] theorem clearIf_occupied (c : RateClass) (sl : Slot) : (sl.clearIf c).occupied = sl.occupied := by
  unfold Slot.clearIf; split <;> rfl
@[simp] theorem clearIf_id (c : RateClass) (sl : Slot) : (sl.clearIf c).id = sl.id := by
  unfold Slot.clearIf; split <;> rfl
@[simp] theorem clearIf_vtype (c : RateClass) (sl : Slot) : (sl.clearIf c).vtype = sl.vtype := by
  unfold Slot.clearIf; split <;> rfl
@[simp] theorem clearIf_rclass (c : RateClass) (sl : Slot) : (sl.clearIf c).rclass = sl.rclass := by
  unfold Slot.clearIf; split <;> rfl
@[simp] theorem clearIf_payload (c : RateClass) (sl : Slot) : (sl.clearIf c).payload = sl.payload := by
  unfold Slot.clearIf; split <;> rfl
@[simp] theorem clearIf_dirty (c : RateClass) (sl : Slot) :
    (sl.clearIf c).dirty = (sl.dirty && !(sl.occupied && decide (sl.rclass = c))) := by
  unfold Slot.clearIf
  split
  · next h => simp [h]
  · next h =>
    cases ho : sl.occupied <;> simp_all
@[simp] theorem clearIf_holds (c : RateClass) (sl : Slot) (id : VarId) : (sl.clearIf c).holds id = sl.holds id := by
  simp [Slot.holds]

/-- CLEAR leaves a slot of another class as it is. -/
theorem clearIf_of_rclass_ne {c : RateClass} {sl : Slot} (h : sl.rclass ≠ c) : sl.clearIf c = sl := by
  simp [Slot.clearIf, h]

@[simp] theorem clearSlots_length (c : RateClass) (slots : List Slot) : (clearSlots c slots).length = slots.length := by
  simp [clearSlots]

@[simp] theorem clearSlots_getElem? (c : RateClass) (slots : List Slot) (k : Nat) :
    (clearSlots c slots)[k]? = slots[k]?.map (Slot.clearIf c) := by
  simp [clearSlots]

/-- A write that keeps what a slot holds does not change `find`. -/
theorem find_map {f : Slot → Slot} (hf : ∀ sl id, (f sl).holds id = sl.holds id) (slots : List Slot) (id : VarId) :
    find (slots.map f) id = find slots id := by
  simp only [find, List.findIdx?_map]
  exact congrArg (fun p => slots.findIdx? p) (funext fun sl => hf sl id)

@[simp] theorem find_clearSlots (c : RateClass) (slots : List Slot) (id : VarId) :
    find (clearSlots c slots) id = find slots id := find_map (clearIf_holds c) slots id

theorem slotAt_clearSlots (c : RateClass) (slots : List Slot) (k : Nat) :
    slotAt (clearSlots c slots) k = (slotAt slots k).clearIf c := by
  simp only [slotAt, List.getD, clearSlots_getElem?]
  cases slots[k]? <;> rfl

theorem find_modify {f : Slot → Slot} (hf : ∀ sl id, (f sl).holds id = sl.holds id) (slots : List Slot) (k : Nat)
    (id : VarId) : find (slots.modify k f) id = find slots id := by
  induction slots generalizing k with
  | nil => simp [find]
  | cons a l ih =>
    cases k with
    | zero => simp [find, List.findIdx?_cons, hf]
    | succ k =>
      have := ih k
      simp only [find] at this
      simp [find, List.findIdx?_cons, this]

/-- What REGISTER does to the registry, in all its cases. -/
theorem register_cases {slots slots' : List Slot} {id : VarId} {rc : Option RateClass} {vt : VarType}
    (h : register slots id rc vt = .ok slots') :
    ∃ c k, rc = some c ∧ id ≠ 0 ∧ find slots id = none ∧ firstFree slots = some k ∧
      slots' = slots.modify k (·.declare id vt c) := by
  unfold register at h
  split at h
  · cases h
  · next c =>
    split at h
    · cases h
    · next hid =>
      split at h
      · cases h
      · next hf =>
        split at h
        · cases h
        · next k hk =>
          cases h
          exact ⟨c, k, rfl, hid, by simpa using hf, hk, rfl⟩

/-- What SUBMIT does to the registry, in all its cases. -/
theorem submit_cases {slots slots' : List Slot} {id : VarId} {n : Nat} {w : List Byte}
    (h : submit slots id n w = .ok slots') :
    ∃ k, find slots id = some k ∧ n = (slotAt slots k).vtype.width ∧ slots' = slots.modify k (·.store w) := by
  unfold submit at h
  split at h
  · cases h
  · next k hk =>
    split at h
    · cases h
    · next hn =>
      cases h
      exact ⟨k, hk, by simpa using hn, rfl⟩

end Sys2Proof.Machine
end

