-- ==== Sys2Proof/Laws/RateQueue.lean ====
section
/-! SUPPORT. What a pending list holds, and which slot writes leave it alone. -/

namespace Sys2Proof.Machine

theorem mem_allIds {id : VarId} : id ∈ allIds ↔ id ≠ 0 := by
  simp only [allIds, List.mem_map, List.mem_range]
  constructor
  · rintro ⟨i, hi, rfl⟩ h
    have := congrArg BitVec.toNat h
    simp at this
    omega
  · intro h
    have h0 : id.toNat ≠ 0 := fun hz => h (BitVec.eq_of_toNat_eq (by simpa using hz))
    have := id.isLt
    exact ⟨id.toNat - 1, by omega, BitVec.eq_of_toNat_eq (by simp; omega)⟩

theorem allIds_ascend : allIds.Pairwise (fun a b => a < b) := by
  rw [allIds, List.pairwise_map]
  refine List.Pairwise.imp_of_mem ?_ (List.pairwise_lt_range (n := 255))
  intro a b ha hb hab
  rw [List.mem_range] at ha hb
  rw [BitVec.lt_def]
  simp
  omega

/-- The entry of an identifier: the slot that `find` gives, if it is dirty and of the class. -/
theorem pendingEntry_eq_some_iff {c : RateClass} {slots : List Slot} {id : VarId} {e : Entry} :
    pendingEntry c slots id = some e ↔
      ∃ k, find slots id = some k ∧ (slotAt slots k).rclass = c ∧ (slotAt slots k).dirty = true ∧
        e = ⟨id, (slotAt slots k).vtype, (slotAt slots k).payload.bytes (slotAt slots k).vtype.width⟩ := by
  unfold pendingEntry
  split
  · next h => simp [h]
  · next k h =>
    simp only [h, Option.some.injEq, exists_eq_left']
    split
    · next hd => simp [hd, eq_comm]
    · next hd =>
      simp only [reduceCtorEq, false_iff]
      exact fun ⟨h1, h2, _⟩ => hd ⟨h1, h2⟩

theorem pendingEntry_id {c : RateClass} {slots : List Slot} {id : VarId} {e : Entry}
    (h : pendingEntry c slots id = some e) : e.id = id := by
  obtain ⟨k, _, _, _, rfl⟩ := pendingEntry_eq_some_iff.1 h
  rfl

theorem mem_pendingList {c : RateClass} {slots : List Slot} {e : Entry} :
    e ∈ pendingList c slots ↔ e.id ≠ 0 ∧ pendingEntry c slots e.id = some e := by
  simp only [pendingList, List.mem_filterMap]
  constructor
  · rintro ⟨id, hid, h⟩
    have := pendingEntry_id h
    subst this
    exact ⟨mem_allIds.1 hid, h⟩
  · rintro ⟨hid, h⟩
    exact ⟨e.id, mem_allIds.2 hid, h⟩

theorem pendingList_ascends (c : RateClass) (slots : List Slot) :
    (pendingList c slots).Pairwise (fun a b => a.id < b.id) := by
  rw [pendingList, List.pairwise_filterMap]
  refine allIds_ascend.imp fun {a b} hab x hx y hy => ?_
  rw [pendingEntry_id hx, pendingEntry_id hy]
  exact hab

theorem pendingList_eq_nil_iff {c : RateClass} {slots : List Slot} :
    pendingList c slots = [] ↔ ∀ id, id ≠ 0 → pendingEntry c slots id = none := by
  simp only [pendingList, List.filterMap_eq_nil_iff, mem_allIds]

/-- Two registries with the same entries have the same pending list. -/
theorem pendingList_congr {c : RateClass} {slots slots' : List Slot}
    (h : ∀ id, id ≠ 0 → pendingEntry c slots id = pendingEntry c slots' id) :
    pendingList c slots = pendingList c slots' :=
  List.filterMap_congr fun id hid => h id (mem_allIds.1 hid)

theorem width_le_four (t : VarType) : t.width ≤ 4 := by cases t <;> decide

theorem width_pos (t : VarType) : 1 ≤ t.width := by cases t <;> decide

@[simp] theorem payload_bytes_length (p : Payload) (t : VarType) : (p.bytes t.width).length = t.width := by
  cases t <;> rfl

theorem payload_length_of_mem {c : RateClass} {slots : List Slot} {e : Entry} (h : e ∈ pendingList c slots) :
    e.payload.length = e.vtype.width := by
  obtain ⟨k, _, _, _, he⟩ := pendingEntry_eq_some_iff.1 (mem_pendingList.1 h).2
  rw [he]
  simp

@[simp] theorem wbufPrefix_length (w : List Byte) (n : Nat) : (wbufPrefix w n).length = n := by
  simp [wbufPrefix]

/-- The bytes a SUBMIT stores are the bytes of the port. -/
theorem payload_write_bytes (p : Payload) (t : VarType) (w : List Byte) :
    (p.write t.width w).bytes t.width = wbufPrefix w t.width := by
  cases t <;> rfl

/-- CLEAR empties the pending list of its class. -/
theorem pendingEntry_clearSlots_same (c : RateClass) (slots : List Slot) (id : VarId) :
    pendingEntry c (clearSlots c slots) id = none := by
  rw [Option.eq_none_iff_forall_ne_some]
  intro e h
  obtain ⟨k, hk, hc, hd, _⟩ := pendingEntry_eq_some_iff.1 h
  rw [find_clearSlots] at hk
  obtain ⟨sl, hsl, hh, _⟩ := find_eq_some_iff.1 hk
  rw [slotAt_clearSlots, slotAt_of_getElem? hsl] at hc hd
  simp only [clearIf_rclass, clearIf_dirty, holds_iff] at hc hd hh
  simp [hc, hh.1] at hd

/-- CLEAR leaves the pending list of another class alone. -/
theorem pendingEntry_clearSlots_other {c c' : RateClass} (hne : c' ≠ c) (slots : List Slot) (id : VarId) :
    pendingEntry c' (clearSlots c slots) id = pendingEntry c' slots id := by
  unfold pendingEntry
  rw [find_clearSlots]
  split
  · rfl
  · next k hk =>
    rw [slotAt_clearSlots]
    by_cases h : (slotAt slots k).rclass = c
    · have : (slotAt slots k).rclass ≠ c' := fun h' => hne (h'.symm.trans h)
      simp [this]
    · rw [clearIf_of_rclass_ne h]

theorem pendingList_clearSlots_same (c : RateClass) (slots : List Slot) : pendingList c (clearSlots c slots) = [] :=
  pendingList_eq_nil_iff.2 fun id _ => pendingEntry_clearSlots_same c slots id

theorem pendingList_clearSlots_other {c c' : RateClass} (hne : c' ≠ c) (slots : List Slot) :
    pendingList c' (clearSlots c slots) = pendingList c' slots :=
  pendingList_congr fun id _ => pendingEntry_clearSlots_other hne slots id

theorem getElem?_modify_of_ne (slots : List Slot) (f : Slot → Slot) {j k : Nat} (h : j ≠ k) :
    (slots.modify k f)[j]? = slots[j]? := by
  rw [List.getElem?_modify]
  simp [Ne.symm h]

theorem getElem?_modify_self (slots : List Slot) (f : Slot → Slot) (k : Nat) :
    (slots.modify k f)[k]? = slots[k]?.map f := by
  rw [List.getElem?_modify]
  simp

theorem slotAt_modify_of_ne (slots : List Slot) (f : Slot → Slot) {j k : Nat} (h : j ≠ k) :
    slotAt (slots.modify k f) j = slotAt slots j := by
  simp only [slotAt, List.getD, getElem?_modify_of_ne slots f h]

/-- REGISTER of a fresh identifier in a free slot changes no pending list: the new slot is clean. -/
theorem pendingEntry_register (c' : RateClass) {slots : List Slot} {id : VarId} {k : Nat} {vt : VarType}
    {c : RateClass} (hf : find slots id = none) (hk : firstFree slots = some k) (id' : VarId) :
    pendingEntry c' (slots.modify k (·.declare id vt c)) id' = pendingEntry c' slots id' := by
  obtain ⟨sl, hsl, hocc, -⟩ := firstFree_eq_some_iff.1 hk
  by_cases hid : id' = id
  · subst hid
    have hnone : pendingEntry c' slots id' = none := by simp [pendingEntry, hf]
    rw [hnone, Option.eq_none_iff_forall_ne_some]
    intro e he
    obtain ⟨j, hj, -, hd, -⟩ := pendingEntry_eq_some_iff.1 he
    obtain ⟨x, hx, hxh, -⟩ := find_eq_some_iff.1 hj
    by_cases hjk : j = k
    · subst hjk
      rw [slotAt_of_getElem? hx] at hd
      rw [getElem?_modify_self, hsl] at hx
      simp only [Option.map_some, Option.some.injEq] at hx
      rw [← hx] at hd
      simp at hd
    · rw [getElem?_modify_of_ne _ _ hjk] at hx
      have := find_eq_none_iff.1 hf x (List.mem_of_getElem? hx)
      rw [this] at hxh
      cases hxh
  · have hfind : find (slots.modify k (·.declare id vt c)) id' = find slots id' := by
      have hk0 : sl.holds id' = false := by simp [Slot.holds, hocc]
      have hk1 : (sl.declare id vt c).holds id' = false := by
        simp [Slot.holds, Slot.declare]
        exact fun h => hid h.symm
      ext j
      simp only [find_eq_some_iff, List.getElem?_modify]
      constructor
      · rintro ⟨x, hx, hxh, hlt⟩
        by_cases hjk : k = j
        · subst hjk
          simp only [hsl, if_true] at hx
          cases hx
          rw [hk1] at hxh
          cases hxh
        · refine ⟨x, by simpa [hjk] using hx, hxh, fun i hi y hy => ?_⟩
          by_cases hik : k = i
          · subst hik
            rw [hsl] at hy
            cases hy
            exact hk0
          · exact hlt i hi y (by simpa [hik] using hy)
      · rintro ⟨x, hx, hxh, hlt⟩
        by_cases hjk : k = j
        · subst hjk
          rw [hsl] at hx
          cases hx
          rw [hk0] at hxh
          cases hxh
        · refine ⟨x, by simpa [hjk] using hx, hxh, fun i hi y hy => ?_⟩
          by_cases hik : k = i
          · subst hik
            simp only [hsl, if_true] at hy
            cases hy
            exact hk1
          · exact hlt i hi y (by simpa [hik] using hy)
    unfold pendingEntry
    rw [hfind]
    split
    · rfl
    · next j hj =>
      obtain ⟨x, hx, hxh, -⟩ := find_eq_some_iff.1 hj
      have hjk : j ≠ k := by
        rintro rfl
        rw [hsl] at hx
        cases hx
        simp [Slot.holds, hocc] at hxh
      rw [slotAt_modify_of_ne _ _ hjk]

/-- SUBMIT leaves the entries of the other identifiers alone. -/
theorem pendingEntry_submit_other (c : RateClass) {slots : List Slot} {id id' : VarId} {k : Nat} {w : List Byte}
    (hk : find slots id = some k) (hne : id' ≠ id) :
    pendingEntry c (slots.modify k (·.store w)) id' = pendingEntry c slots id' := by
  unfold pendingEntry
  rw [find_modify (fun sl id => store_holds sl w id)]
  split
  · rfl
  · next j hj =>
    have hjk : j ≠ k := by
      rintro rfl
      obtain ⟨x, hx, hxh, -⟩ := find_eq_some_iff.1 hj
      obtain ⟨y, hy, hyh, -⟩ := find_eq_some_iff.1 hk
      rw [hx] at hy
      cases hy
      exact hne ((holds_iff.1 hxh).2.symm.trans (holds_iff.1 hyh).2)
    rw [slotAt_modify_of_ne _ _ hjk]

theorem slotAt_modify_self {slots : List Slot} {f : Slot → Slot} {k : Nat} {sl : Slot} (h : slots[k]? = some sl) :
    slotAt (slots.modify k f) k = f sl := by
  apply slotAt_of_getElem?
  rw [getElem?_modify_self, h]
  rfl

/-- SUBMIT puts the submitted bytes into the entry of its identifier. -/
theorem pendingEntry_submit_self {slots : List Slot} {id : VarId} {k : Nat} {w : List Byte}
    (hk : find slots id = some k) :
    pendingEntry (slotAt slots k).rclass (slots.modify k (·.store w)) id =
      some ⟨id, (slotAt slots k).vtype, wbufPrefix w (slotAt slots k).vtype.width⟩ := by
  obtain ⟨sl, hsl, -, -⟩ := find_eq_some_iff.1 hk
  rw [pendingEntry_eq_some_iff]
  refine ⟨k, by rw [find_modify (fun sl id => store_holds sl w id)]; exact hk, ?_⟩
  rw [slotAt_modify_self hsl, slotAt_of_getElem? hsl]
  refine ⟨rfl, rfl, ?_⟩
  simp [Slot.store, payload_write_bytes]

end Sys2Proof.Machine
end

