-- ==== Sys2Proof/Laws/Codec.lean ====
section
/-! SUPPORT. The byte-order helpers, the checksum, the encoder's frame and the cutting of a pair region. -/

namespace Sys2Proof

@[simp] theorem le32_length (v : BitVec 32) : (le32 v).length = 4 := rfl

theorem fromLe32_le32 (v : BitVec 32) : fromLe32 (le32 v) = v := by
  apply BitVec.eq_of_toNat_eq
  have h := v.isLt
  simp [fromLe32, le32, byteAt, BitVec.extractLsb'_toNat, Nat.shiftRight_eq_div_pow]
  omega

theorem le32_fromLe32 {b : List Byte} (h : b.length = 4) : le32 (fromLe32 b) = b := by
  match b, h with
  | [a, b, c, d], _ =>
    have ha := a.isLt
    have hb := b.isLt
    have hc := c.isLt
    have hd := d.isLt
    simp only [le32, fromLe32, byteAt]
    congr 1
    · apply BitVec.eq_of_toNat_eq
      simp [BitVec.extractLsb'_toNat, Nat.shiftRight_eq_div_pow]
      omega
    · congr 1
      · apply BitVec.eq_of_toNat_eq
        simp [BitVec.extractLsb'_toNat, Nat.shiftRight_eq_div_pow]
        omega
      · congr 1
        · apply BitVec.eq_of_toNat_eq
          simp [BitVec.extractLsb'_toNat, Nat.shiftRight_eq_div_pow]
          omega
        · congr 1
          apply BitVec.eq_of_toNat_eq
          simp [BitVec.extractLsb'_toNat, Nat.shiftRight_eq_div_pow]
          omega

@[simp] theorem xorAll_nil : xorAll [] = 0 := rfl

@[simp] theorem xorAll_cons (a : Byte) (s : List Byte) : xorAll (a :: s) = a ^^^ xorAll s := rfl

@[simp] theorem xorAll_append (a b : List Byte) : xorAll (a ++ b) = xorAll a ^^^ xorAll b := by
  induction a with
  | nil => simp
  | cons x a ih => simp [ih, BitVec.xor_assoc]

/-- A sequence followed by its own checksum xors to 0. -/
theorem xorAll_checksum (s : List Byte) : xorAll (s ++ [xorAll s]) = 0 := by
  simp

/-- Changing one byte changes the checksum by what the byte changed. -/
theorem xorAll_set {s : List Byte} {i : Nat} (h : i < s.length) (v : Byte) :
    xorAll (s.set i v) = xorAll s ^^^ byteAt s i ^^^ v := by
  induction s generalizing i with
  | nil => simp at h
  | cons a s ih =>
    cases i with
    | zero =>
      simp only [List.set_cons_zero, xorAll_cons, byteAt, List.getD_cons_zero]
      rw [BitVec.xor_comm a, BitVec.xor_assoc, BitVec.xor_assoc, ← BitVec.xor_assoc a a, BitVec.xor_self,
        BitVec.zero_xor, BitVec.xor_comm]
    | succ i =>
      simp only [List.length_cons, Nat.add_lt_add_iff_right] at h
      simp only [List.set_cons_succ, xorAll_cons, ih h, byteAt, List.getD_cons_succ]
      simp only [BitVec.xor_assoc]

theorem byteAt_append_left {a : List Byte} (b : List Byte) {i : Nat} (h : i < a.length) :
    byteAt (a ++ b) i = byteAt a i := by
  simp [byteAt, List.getD, List.getElem?_append_left h]

theorem byteAt_append_right {a : List Byte} (b : List Byte) {i : Nat} (h : a.length ≤ i) :
    byteAt (a ++ b) i = byteAt b (i - a.length) := by
  simp [byteAt, List.getD, List.getElem?_append_right h]

theorem byteAt_take {s : List Byte} {n i : Nat} (h : i < n) : byteAt (s.take n) i = byteAt s i := by
  simp [byteAt, List.getD, h]

theorem byteAt_wbufPrefix (w : List Byte) {n i : Nat} (h : i < n) : byteAt (wbufPrefix w n) i = wbufByte w i := by
  simp [byteAt, wbufPrefix, List.getD, List.getElem?_range h]

/-- The port holding a byte sequence delivers it whole. -/
theorem wbufPrefix_self (f : List Byte) : wbufPrefix f f.length = f := by
  apply List.ext_getElem
  · simp [wbufPrefix]
  · intro i h1 h2
    simp [wbufPrefix, wbufByte, h2]

namespace Machine

theorem pairRegion_cons (e : Entry) (p : List Entry) : pairRegion (e :: p) = e.id :: e.payload ++ pairRegion p := by
  simp [pairRegion]

/-- The pair region of entries of the right widths is `L` bytes long. -/
theorem pairRegion_length {p : List Entry} (h : ∀ e ∈ p, e.payload.length = e.vtype.width) :
    (pairRegion p).length = regionLength p := by
  induction p with
  | nil => rfl
  | cons e p ih =>
    rw [pairRegion_cons, List.length_append, ih fun x hx => h x (List.mem_cons_of_mem _ hx), List.length_cons,
      h e List.mem_cons_self]
    simp [regionLength]
    omega

theorem pendingRegion_length (c : RateClass) (slots : List Slot) :
    (pairRegion (pendingList c slots)).length = regionLength (pendingList c slots) :=
  pairRegion_length fun _ h => payload_length_of_mem h

theorem coveredBytes_length (cfg : Config) (p : List Entry) (t : Time) :
    (coveredBytes cfg p t).length = 6 + (pairRegion p).length := by
  simp [coveredBytes]
  omega

/-- The encoder, in both its cases. -/
theorem encodeList_eq_some_iff {cfg : Config} {p : List Entry} {t : Time} {f : List Byte} :
    encodeList cfg p t = some f ↔
      regionLength p ≤ 248 ∧ f = coveredBytes cfg p t ++ [xorAll (coveredBytes cfg p t), cfg.endByte] := by
  unfold encodeList
  split
  · next h => simp at h ⊢; omega
  · next h =>
    simp only [frameOverhead_eq, maxPacket_eq] at h
    simp only [Option.some.injEq, eq_comm]
    constructor
    · rintro rfl
      exact ⟨by omega, rfl⟩
    · exact fun h => h.2

theorem encodeList_eq_none_iff {cfg : Config} {p : List Entry} {t : Time} :
    encodeList cfg p t = none ↔ 249 ≤ regionLength p := by
  unfold encodeList
  split
  · next h => simp at h ⊢; omega
  · next h => simp at h ⊢; omega

/-- An empty region is no pairs. -/
@[simp] theorem parsePairs_nil (slots : List Slot) (n : Nat) : parsePairs slots n [] = some [] := by
  cases n <;> rfl

/-- One step of the cut. -/
theorem parsePairs_cons (slots : List Slot) (n : Nat) (id : VarId) (rest : List Byte) :
    parsePairs slots (n + 1) (id :: rest) =
      match find slots id with
      | none => none
      | some k =>
        if rest.length < (slotAt slots k).vtype.width then none
        else (parsePairs slots n (rest.drop (slotAt slots k).vtype.width)).map
          ((id, rest.take (slotAt slots k).vtype.width) :: ·) := rfl

/-- The cut gives back the region, with registered identifiers and payloads of their widths. -/
theorem parsePairs_sound {slots : List Slot} {n : Nat} {region : List Byte} {ps : List Pair}
    (h : parsePairs slots n region = some ps) :
    region = ps.flatMap (fun p => p.1 :: p.2) ∧
      ∀ p ∈ ps, ∃ k, find slots p.1 = some k ∧ p.2.length = (slotAt slots k).vtype.width := by
  induction n generalizing region ps with
  | zero =>
    cases region with
    | nil =>
      obtain rfl : [] = ps := by simpa using h
      simp
    | cons a r => cases h
  | succ n ih =>
    cases region with
    | nil =>
      obtain rfl : [] = ps := by simpa using h
      simp
    | cons id rest =>
      rw [parsePairs_cons] at h
      split at h
      · cases h
      · next k hk =>
        split at h
        · cases h
        · next hw =>
          rw [Option.map_eq_some_iff] at h
          obtain ⟨ps', hps, rfl⟩ := h
          obtain ⟨h1, h2⟩ := ih hps
          refine ⟨?_, ?_⟩
          · rw [List.flatMap_cons, ← h1, List.cons_append, List.take_append_drop]
          · intro p hp
            rcases List.mem_cons.1 hp with rfl | hp
            · exact ⟨k, hk, by simp; omega⟩
            · exact h2 p hp

/-- A region that is a sequence of pairs is cut into them, given enough fuel. -/
theorem parsePairs_complete {slots : List Slot} (ps : List Pair)
    (h : ∀ p ∈ ps, ∃ k, find slots p.1 = some k ∧ p.2.length = (slotAt slots k).vtype.width) (n : Nat)
    (hn : (ps.flatMap (fun p => p.1 :: p.2)).length ≤ n) :
    parsePairs slots n (ps.flatMap fun p => p.1 :: p.2) = some ps := by
  induction ps generalizing n with
  | nil => simp
  | cons p ps ih =>
    obtain ⟨k, hk, hw⟩ := h p List.mem_cons_self
    rw [List.flatMap_cons] at hn ⊢
    cases n with
    | zero => simp at hn
    | succ n =>
      have hlen : (ps.flatMap (fun p => p.1 :: p.2)).length ≤ n := by
        rw [List.length_append, List.length_cons] at hn
        omega
      rw [List.cons_append, parsePairs_cons, hk]
      simp only [← hw, List.length_append]
      rw [if_neg (by omega), List.drop_left, List.take_left, ih (fun q hq => h q (List.mem_cons_of_mem _ hq)) n hlen]
      rfl

/-- The tests of DECODE, all passed: what a successful decoding says of the bytes. -/
theorem decodeFrame_eq_ok_iff {cfg : Config} {slots : List Slot} {bytes : List Byte} {d : Decoded} :
    decodeFrame cfg slots bytes = .ok d ↔
      byteAt bytes 0 = cfg.startByte ∧ (byteAt bytes 1).toNat + 8 ≤ bytes.length ∧
      byteAt bytes (7 + (byteAt bytes 1).toNat) = cfg.endByte ∧
      xorAll (bytes.take (6 + (byteAt bytes 1).toNat)) = byteAt bytes (6 + (byteAt bytes 1).toNat) ∧
      d.region = (bytes.drop 6).take (byteAt bytes 1).toNat ∧ d.time = fromLe32 ((bytes.drop 2).take 4) ∧
      parsePairs slots d.region.length d.region = some d.pairs := by
  obtain ⟨time, region, pairs⟩ := d
  unfold decodeFrame
  dsimp only
  split
  · next h => simp; omega
  · split
    · next h => simp [h]
    · next h0 =>
      split
      · simp; omega
      · split
        · next h =>
          simp only [frameOverhead_eq] at h
          simp only [reduceCtorEq, false_iff]
          intro ⟨_, h', _⟩
          omega
        · next hl =>
          split
          · next h => simp [h]
          · next h7 =>
            split
            · next h => simp [h]
            · next h6 =>
              simp only [ne_eq, not_not, not_lt, frameOverhead_eq] at h0 h7 h6 hl
              split
              · next hp =>
                simp only [reduceCtorEq, false_iff]
                rintro ⟨-, -, -, -, rfl, -, h⟩
                rw [hp] at h
                cases h
              · next ps hp =>
                simp only [Except.ok.injEq, Decoded.mk.injEq]
                constructor
                · rintro ⟨rfl, rfl, rfl⟩
                  exact ⟨h0, hl, h7, h6, rfl, rfl, hp⟩
                · rintro ⟨-, -, -, -, rfl, rfl, h⟩
                  rw [hp] at h
                  exact ⟨rfl, rfl, Option.some.inj h⟩

end Machine
end Sys2Proof
end

