-- ==== Sys2Proof/Laws/PerInstr.lean ====
section
/-! SUPPORT. The statement made per operation: the word of the operation carries the opcode of its row of
spec/opcode_table.json, whatever the operands (spec/30_encoding.md R101, R102). -/

namespace Sys2Proof.Laws

/-- The opcode of a packed word is the opcode packed. -/
theorem opField_packWord (op id : BitVec 8) (rc vt : BitVec 2) (n : BitVec 9) : opField (packWord op id rc vt n) = op := by
  unfold opField packWord
  ext i hi
  have h1 : ¬(24 + i < 9) := by omega
  have h2 : ¬(24 + i - 9 < 3) := by omega
  have h3 : ¬(24 + i - 9 - 3 < 2) := by omega
  have h4 : ¬(24 + i - 9 - 3 - 2 < 2) := by omega
  have h5 : ¬(24 + i - 9 - 3 - 2 - 2 < 8) := by omega
  have h6 : 24 + i - 9 - 3 - 2 - 2 - 8 = i := by omega
  simp only [BitVec.getElem_extractLsb', BitVec.getLsbD_append, h1, h2, h3, h4, h5, h6]
  simp [hi]

end Sys2Proof.Laws

/-- The operation's word has the opcode of the operation's row. -/
def Sys2Proof.Laws.OpcodeRow.Statement (i : Sys2Proof.Instr) : Prop := Sys2Proof.opField (Sys2Proof.encode i) = Sys2Proof.opcode i

namespace Sys2Proof.Laws.OpcodeRow

theorem now : Statement .now := opField_packWord ..

theorem register (id : VarId) (rc : Option RateClass) (vt : VarType) : Statement (.register id rc vt) :=
  opField_packWord ..

theorem submit (id : VarId) (n : BitVec 9) : Statement (.submit id n) := opField_packWord ..

theorem pending (rc : Option RateClass) : Statement (.pending rc) := opField_packWord ..

theorem clear (rc : Option RateClass) : Statement (.clear rc) := opField_packWord ..

theorem encode (rc : Option RateClass) : Statement (.encode rc) := opField_packWord ..

theorem decode (n : BitVec 9) : Statement (.decode n) := opField_packWord ..

theorem tick : Statement .tick := opField_packWord ..

end Sys2Proof.Laws.OpcodeRow
end

