-- ==== Sys2Proof/Laws/Scheduler.lean ====
section
/-! SUPPORT. What the time source, the outward calls and one class of a TICK do. -/

namespace Sys2Proof

@[simp] theorem PerClass.set_set {α : Type} (x : PerClass α) (c : RateClass) (v w : α) :
    (x.set c v).set c w = x.set c w := by
  cases c <;> rfl

theorem RawWidth.sample_toNat (w : RawWidth) (a : Raw) : (w.sample a).toNat = a.toNat % 2 ^ w.bits := by
  have := a.isLt
  cases w
  · simp [RawWidth.sample, RawWidth.bits]
    omega
  · simp only [RawWidth.sample, RawWidth.bits]
    omega

theorem RawWidth.sample_lt (w : RawWidth) (a : Raw) : (w.sample a).toNat < 2 ^ w.bits := by
  rw [w.sample_toNat]
  exact Nat.mod_lt _ (Nat.two_pow_pos _)

theorem zext64_toNat (v : BitVec 32) : (zext64 v).toNat = v.toNat := by
  have := v.isLt
  simp [zext64]
  omega

theorem RawWidth.wrap_toNat (w : RawWidth) : w.wrap.toNat = 2 ^ w.bits := by cases w <;> rfl

namespace Machine

theorem readRaw_lt (s : State) : (readRaw s).1.toNat < 2 ^ s.cfg.rawWidth.bits := RawWidth.sample_lt _ _

/-- The elapsed time is the accumulated high part plus the last sample, as the state holds them after the poll. -/
theorem now_value (s : State) : (now s).1 = (now s).2.blk.accHigh + zext64 (now s).2.blk.lastRaw := rfl

theorem now_accHigh (s : State) : (now s).2.blk.accHigh =
    if (now s).2.blk.lastRaw < s.blk.lastRaw then s.blk.accHigh + s.cfg.rawWidth.wrap else s.blk.accHigh := rfl

theorem draw_rest_suffix {α : Type} (free : Nat → α) (l : List α) (n : Nat) : (draw free l n).rest <:+ l := by
  cases l with
  | nil => exact List.suffix_rfl
  | cons a l => exact List.suffix_cons a l

theorem draw_next_ge {α : Type} (free : Nat → α) (l : List α) (n : Nat) : n ≤ (draw free l n).next := by
  cases l with
  | nil => exact Nat.le_succ n
  | cons a l => exact Nat.le_refl n

theorem readRaw_raws_suffix (s : State) : (readRaw s).2.io.raws <:+ s.io.raws := draw_rest_suffix _ _ _

theorem readRaw_nextFree_ge (s : State) : s.io.nextFree ≤ (readRaw s).2.io.nextFree := draw_next_ge _ _ _

theorem transmit_txs_suffix (f : List Byte) (s : State) : (transmit f s).2.io.txs <:+ s.io.txs :=
  draw_rest_suffix _ _ _

theorem transmit_nextFree_ge (f : List Byte) (s : State) : s.io.nextFree ≤ (transmit f s).2.io.nextFree :=
  draw_next_ge _ _ _

/-- One class of a TICK ends in one of five ways, and each says what was done. -/
theorem tickClass_cases (c : RateClass) (s : State) :
    tickClass c s = (.notDue, (now s).2) ∨
    (pendingList c s.blk.slots = [] ∧
      tickClass c s = advanceEmpty c ((now s).2.setSched c .due)) ∨
    (pendingList c s.blk.slots ≠ [] ∧ encodeList s.cfg (pendingList c s.blk.slots) (now s).1 = none ∧
      tickClass c s = (.frameTooLarge, ((now s).2.setSched c .due).setSched c .idle)) ∨
    ∃ f, pendingList c s.blk.slots ≠ [] ∧ encodeList s.cfg (pendingList c s.blk.slots) (now s).1 = some f ∧
      ((transmit f ((now s).2.setSched c .due)).1 = false ∧
        tickClass c s = (.transmitFailed, (transmit f ((now s).2.setSched c .due)).2.setSched c .idle) ∨
       (transmit f ((now s).2.setSched c .due)).1 = true ∧
        tickClass c s = finishSent c (transmit f ((now s).2.setSched c .due)).2) := by
  unfold tickClass
  dsimp only
  split
  · exact .inl rfl
  · refine .inr ?_
    unfold serveDue
    simp only [setSched_blk_slots, now_blk_slots, setSched_cfg, now_cfg, List.isEmpty_iff]
    split
    · next h => exact .inl ⟨h, rfl⟩
    · next h =>
      refine .inr ?_
      split
      · next he => exact .inl ⟨h, he, rfl⟩
      · next f he =>
        refine .inr ⟨f, h, he, ?_⟩
        unfold sendFrame
        dsimp only
        split
        · next hb => exact .inr ⟨hb, rfl⟩
        · next hb => exact .inl ⟨by simpa using hb, rfl⟩

@[simp] theorem tickClass_cfg (c : RateClass) (s : State) : (tickClass c s).2.cfg = s.cfg := by
  obtain h | ⟨-, h⟩ | ⟨-, -, h⟩ | ⟨f, -, -, ⟨-, h⟩ | ⟨-, h⟩⟩ := tickClass_cases c s <;>
    rw [h] <;> simp [advanceEmpty, finishSent]

/-- A class's slots are cleared exactly when it ends in Sent. -/
theorem tickClass_slots (c : RateClass) (s : State) :
    (tickClass c s).2.blk.slots = if (tickClass c s).1 = .sent then clearSlots c s.blk.slots else s.blk.slots := by
  obtain h | ⟨-, h⟩ | ⟨-, -, h⟩ | ⟨f, -, -, ⟨-, h⟩ | ⟨-, h⟩⟩ := tickClass_cases c s <;>
    rw [h] <;> simp [advanceEmpty, finishSent]

/-- The baseline of another class stays. -/
theorem tickClass_lastSent_other {c c' : RateClass} (hne : c' ≠ c) (s : State) :
    (tickClass c s).2.blk.lastSent.get c' = s.blk.lastSent.get c' := by
  obtain h | ⟨-, h⟩ | ⟨-, -, h⟩ | ⟨f, -, -, ⟨-, h⟩ | ⟨-, h⟩⟩ := tickClass_cases c s <;>
    rw [h] <;> simp [advanceEmpty, finishSent, PerClass.get_set_other _ _ hne]

/-- The baselines stay where nothing was sent and the class was not advanced. -/
theorem tickClass_lastSent_kept {c : RateClass} {s : State} (h1 : (tickClass c s).1 ≠ .sent)
    (h2 : (tickClass c s).1 ≠ .emptyAdvanced) : (tickClass c s).2.blk.lastSent = s.blk.lastSent := by
  obtain h | ⟨-, h⟩ | ⟨-, -, h⟩ | ⟨f, -, -, ⟨-, h⟩ | ⟨-, h⟩⟩ := tickClass_cases c s <;>
    rw [h] at h1 h2 ⊢ <;> simp_all [advanceEmpty, finishSent]

/-- A class that was due is Idle again; one that was not is as before. -/
theorem tickClass_sched (c : RateClass) (s : State) :
    (tickClass c s).2.blk.sched = s.blk.sched ∨ (tickClass c s).2.blk.sched = s.blk.sched.set c .idle := by
  obtain h | ⟨-, h⟩ | ⟨-, -, h⟩ | ⟨f, -, -, ⟨-, h⟩ | ⟨-, h⟩⟩ := tickClass_cases c s <;>
    rw [h] <;> simp [advanceEmpty, finishSent]

/-- The interface fields no class of a TICK touches. -/
theorem tickClass_io (c : RateClass) (s : State) :
    (tickClass c s).2.io.resetReq = s.io.resetReq ∧ (tickClass c s).2.io.mainQ = s.io.mainQ ∧
    (tickClass c s).2.io.intQ = s.io.intQ ∧ (tickClass c s).2.io.picks = s.io.picks ∧
    (tickClass c s).2.io.port = s.io.port ∧ (tickClass c s).2.io.responses = s.io.responses := by
  obtain h | ⟨-, h⟩ | ⟨-, -, h⟩ | ⟨f, -, -, ⟨-, h⟩ | ⟨-, h⟩⟩ := tickClass_cases c s <;>
    rw [h] <;> simp [advanceEmpty, finishSent]

theorem tickWalk_results_veryFast (s : State) : (tickWalk s).results.veryFast = (tickClass .veryFast s).1 := rfl

theorem tickWalk_results_fast (s : State) :
    (tickWalk s).results.fast = (tickClass .fast (tickClass .veryFast s).2).1 := rfl

theorem tickWalk_results_slow (s : State) :
    (tickWalk s).results.slow = (tickClass .slow (tickClass .fast (tickClass .veryFast s).2).2).1 := rfl

theorem tickWalk_state (s : State) :
    (tickWalk s).state = (tickClass .slow (tickClass .fast (tickClass .veryFast s).2).2).2 := rfl

@[simp] theorem tickWalk_cfg (s : State) : (tickWalk s).state.cfg = s.cfg := by
  simp [tickWalk_state]

end Machine
end Sys2Proof
end

