-- ==== Sys2Proof/Tests/Slice0.lean ====
section
/-! SUPPORT. Tests. The expected values are the vectors of spec/95_test_vectors.md (named in each docstring) or written
out by hand from the encoding of spec/30_encoding.md R101, R102. After them, for each obligation with hypotheses, one
witness: concrete states and operands that meet them. -/

namespace Sys2Proof.Tests

open Sys2Proof Sys2Proof.Machine

/-! ### Helpers -/

/-- The next state of an outcome. -/
def nextOf : Host.Outcome State Fault Refusal → Option State
  | .next s => some s
  | .fault _ => none
  | .refused _ => none

/-- The last response of an outcome's next state. -/
def answer (o : Host.Outcome State Fault Refusal) : Option Response := (nextOf o).bind (·.io.responses.getLast?)

/-- A four-slot block with a `w`-bit counter. -/
def config (w : RawWidth) : Config where
  rawWidth := w
  cap := 4
  interval := { veryFast := 1000, fast := 2000, slow := 3000 }
  startByte := 0xAA
  endByte := 0x55
  timeUnit := .microsecond

/-- A slot of class VeryFast with a payload. -/
def slot (id : VarId) (vt : VarType) (b0 b1 b2 b3 : Byte) (dirty : Bool) : Slot where
  occupied := true
  id := id
  vtype := vt
  rclass := .veryFast
  payload := { b0 := b0, b1 := b1, b2 := b2, b3 := b3 }
  dirty := dirty

/-- A state with the given first slots, the rest unoccupied. -/
def holding (w : RawWidth) (slots : List Slot) : State :=
  let s := State.resetWith (config w)
  s.setSlots (slots ++ List.replicate (4 - slots.length) Slot.empty)

/-- The environment's answers to come. -/
def answering (raws : List Raw) (txs : List Bool) (s : State) : State := { s with io := { s.io with raws := raws, txs := txs } }

/-- The operand ports. -/
def ported (cw : CommandWord) (arg64 : Time) (wbuf : List Byte) (s : State) : State :=
  { s with io := { s.io with port := { cw := cw, arg64 := arg64, wbuf := wbuf } } }

/-- Identifier 1, Int32, VeryFast, value 42, dirty: the state after step 2 of vector S1 (with this file's intervals). -/
def one : State := holding .w32 [slot 1 .int32 0x2A 0 0 0 true]

/-- The list F2 of 2.6, registered in the order of Q2: 3 Bool, 1 Int32, 2 Float32. -/
def three : State :=
  holding .w32 [slot 3 .bool 0x01 0 0 0 true, slot 1 .int32 0xFF 0xFF 0xFF 0xFF true,
    slot 2 .float32 0x00 0x00 0x80 0x3F true]

/-- Every slot occupied. -/
def full : State :=
  holding .w32 [slot 1 .int32 0 0 0 0 false, slot 2 .int32 0 0 0 0 false, slot 3 .int32 0 0 0 0 false,
    slot 4 .int32 0 0 0 0 false]

/-- Vector F1, the frame of the value 42 at time 600000. -/
def f1 : List Byte := [0xAA, 0x05, 0xC0, 0x27, 0x09, 0x00, 0x01, 0x2A, 0x00, 0x00, 0x00, 0x6A, 0x55]

/-! ### The well-formedness check refuses -/

theorem test_register_reserved_class_ill_formed : (Instr.register 1 none .int32).wellFormed = false := by decide
theorem test_pending_reserved_class_ill_formed : (Instr.pending none).wellFormed = false := by decide
theorem test_clear_reserved_class_ill_formed : (Instr.clear none).wellFormed = false := by decide
theorem test_encode_reserved_class_ill_formed : (Instr.encode none).wellFormed = false := by decide
theorem test_decode_257_bytes_ill_formed : (Instr.decode 257).wellFormed = false := by decide
theorem test_decode_256_bytes_well_formed : (Instr.decode 256).wellFormed = true := by decide

/-! ### Words bit by bit: `op_id_rclass_vtype_ignored_n` (R101) -/

theorem test_word_now : decode 0b00000001_00000000_00_00_000_000000000 = .ok .now := by decide
theorem test_word_register : decode 0b00000010_00000010_01_01_000_000000000 = .ok (.register 2 (some .fast) .float32) := by
  decide
theorem test_word_submit : decode 0b00000011_00000111_00_00_000_000000001 = .ok (.submit 7 1) := by decide
theorem test_word_pending : decode 0b00000100_00000000_10_00_000_000000000 = .ok (.pending (some .slow)) := by decide
theorem test_word_clear : decode 0b00000101_00000000_01_00_000_000000000 = .ok (.clear (some .fast)) := by decide
theorem test_word_encode : decode 0b00000110_00000000_00_00_000_000000000 = .ok (.encode (some .veryFast)) := by decide
theorem test_word_decode : decode 0b00000111_00000000_00_00_000_000001101 = .ok (.decode 13) := by decide
theorem test_word_tick : decode 0b00001000_00000000_00_00_000_000000000 = .ok .tick := by decide
theorem test_word_all_classes_and_types :
    decode 0b00000010_11111111_10_11_000_000000000 = .ok (.register 255 (some .slow) .enum32) ∧
    decode 0b00000010_00000011_00_10_000_000000000 = .ok (.register 3 (some .veryFast) .bool) ∧
    decode 0b00000010_00000001_11_00_000_000000000 = .ok (.register 1 none .int32) := by decide
theorem test_words_encode :
    encode (.register 2 (some .fast) .float32) = 0x02025000 ∧ encode (.submit 1 4) = 0x03010004 ∧
    encode (.decode 13) = 0x0700000D := by decide

/-! ### One step of each operation -/

/-- N1 call 3: a 16-bit counter that went from 0xFFFF to 0. -/
theorem test_now_wraps :
    (answer (exec .now (answering [0x0000] [] ((holding .w16 []).setTime 0xFFFF 0)))).map (·.rdata) = some 65536 := by
  decide
/-- N2 call 1: a 32-bit sample, no wrap. -/
theorem test_now_32_bits :
    (answer (exec .now (answering [0xFFFFFFF0] [] (holding .w32 [])))).map (·.rdata) = some 4294967280 := by decide

/-- 2.3 step 5. -/
theorem test_register_takes_the_next_slot :
    ((nextOf (exec (.register 2 (some .fast) .float32) one)).map fun s => (s.blk.slots.map (·.id)).take 2)
      = some [1, 2] := by decide
/-- 2.3 step 7: identifier 0 is tested before fullness. -/
theorem test_register_zero_when_full :
    answer (exec (.register 0 (some .veryFast) .int32) full) = some ⟨.invalidId, 0, []⟩ := by decide

/-- 2.4 step 16. -/
theorem test_submit_overwrites :
    ((nextOf (exec (.submit 1 4) (ported 0x03010004 0 [0x2B, 0, 0, 0] one))).map fun s => s.blk.slots.head?)
      = some (some (slot 1 .int32 0x2B 0 0 0 true)) := by decide
/-- 2.4: `n = 300` is TypeMismatch, not IllegalCommand. -/
theorem test_submit_300_bytes : answer (exec (.submit 1 300) one) = some ⟨.typeMismatch, 0, []⟩ := by decide

/-- Q2: ascending identifiers whatever the order of registration. -/
theorem test_pending_ascends :
    answer (exec (.pending (some .veryFast)) three) =
      some ⟨.ok, 3, [0x01, 0x00, 0xFF, 0xFF, 0xFF, 0xFF, 0x02, 0x01, 0x00, 0x00, 0x80, 0x3F, 0x03, 0x02, 0x01]⟩ := by decide
/-- Q1: another class has nothing pending. -/
theorem test_pending_other_class : answer (exec (.pending (some .slow)) three) = some ⟨.ok, 0, []⟩ := by decide

/-- S5. -/
theorem test_clear_cleans :
    (nextOf (exec (.clear (some .veryFast)) one)).map (fun s => s.blk.slots.head?) =
      some (some (slot 1 .int32 0x2A 0 0 0 false)) := by decide
/-- Q3: another class stays dirty. -/
theorem test_clear_other_class :
    (nextOf (exec (.clear (some .fast)) one)).map (·.blk.slots) = some one.blk.slots := by decide

/-- F2. -/
theorem test_encode_f2 :
    answer (exec (.encode (some .veryFast)) (ported 0x06000000 0x01020304 [] three)) =
      some ⟨.ok, 0, [0xAA, 0x0C, 0x04, 0x03, 0x02, 0x01, 0x01, 0xFF, 0xFF, 0xFF, 0xFF, 0x02, 0x00, 0x00, 0x80, 0x3F,
        0x03, 0x01, 0x1C, 0x55]⟩ := by decide
/-- F5: the time is truncated to 32 bits. -/
theorem test_encode_f5 :
    answer (exec (.encode (some .veryFast)) (ported 0x06000000 0x100000005 [] one)) =
      some ⟨.ok, 0, [0xAA, 0x05, 0x05, 0x00, 0x00, 0x00, 0x01, 0x2A, 0x00, 0x00, 0x00, 0x81, 0x55]⟩ := by decide

/-- X11: F1 followed by two more bytes. -/
theorem test_decode_f1_trailing :
    answer (exec (.decode 15) (ported 0x0700000F 0 (f1 ++ [0xDE, 0xAD]) one)) =
      some ⟨.ok, 600000, [0x01, 0x2A, 0x00, 0x00, 0x00]⟩ := by decide
/-- X3: LENGTH 5 changed to 7. -/
theorem test_decode_long_length :
    answer (exec (.decode 13) (ported 0x0700000D 0 (f1.set 1 0x07) one)) = some ⟨.truncatedFrame, 0, []⟩ := by decide

/-- P3 step 3's poll order on 32 bits, S1's frame F1: TIMESTAMP is poll 1, the baseline poll 2. -/
theorem test_tick_sends_f1 :
    (nextOf (exec .tick (answering [600000, 600003, 600004, 600004, 600004, 600004] [true] one))).map (fun s =>
      (s.io.calls, s.blk.lastSent.veryFast, (s.io.responses.getLast?).map (·.rdata))) =
    some ([.readRaw 600000, .transmit f1 true, .readRaw 600003, .readRaw 600004, .readRaw 600004, .readRaw 600004,
      .readRaw 600004], 600003, some 0x112) := by decide
/-- T4: a failed transmit keeps the value and the baseline. -/
theorem test_tick_failed_transmit_keeps :
    (nextOf (exec .tick (answering [1000, 1000, 1000] [false] one))).map (fun s =>
      (s.blk.slots, s.blk.lastSent.veryFast, (s.io.responses.getLast?).map (·.rdata))) =
    some (one.blk.slots, 0, some 0x003) := by decide

/-! ### Witnesses -/

/-- `one` with a request waiting in each context. -/
def waiting : State :=
  { one with io := { one.io with mainQ := [⟨0x01000000, 0, []⟩], intQ := [⟨0x04000000, 0, []⟩] } }

/-- One request of one context, with command word `cw`. -/
def asking (cw : CommandWord) : State := { one with io := { one.io with mainQ := [⟨cw, 0, []⟩] } }

theorem witness_IgnoredBitsDoNotMatter :
    decode 0x02010FFF = .ok (.register 1 (some .veryFast) .int32) ∧
    (0x02010000 : CommandWord) &&& usedMask (.register 1 (some .veryFast) .int32) =
      0x02010FFF &&& usedMask (.register 1 (some .veryFast) .int32) := by decide

theorem witness_ExactlyTheEightOpcodesDecode :
    decode 0x08ABCDEF = .ok .tick ∧ decode 0x09000000 = .error (.undefinedOpcode 0x09) := by decide

theorem witness_StepRunsTheDecodedCommand :
    (asking 0x01000000).io.resetReq = false ∧ (asking 0x01000000).accept = some (ported 0x01000000 0 [] one) ∧
    decode (ported 0x01000000 0 [] one).io.port.cw = .ok .now := by decide

theorem witness_TheWaitingRequestIsTaken :
    ((asking 0x01000000).io.mainQ = [⟨0x01000000, 0, []⟩] ∧ (asking 0x01000000).io.intQ = []) ∧
    ({ waiting with io := { waiting.io with mainQ := [] } }.io.mainQ = [] ∧
      { waiting with io := { waiting.io with mainQ := [] } }.io.intQ = [⟨0x04000000, 0, []⟩]) ∧
    one.io.mainQ = [] ∧ one.io.intQ = [] := by decide

/-- Both choices can be listed, and an unlisted one is a free value. -/
theorem witness_ArbitrationAllowsBothOrders :
    waiting.io.mainQ = [⟨0x01000000, 0, []⟩] ∧ waiting.io.intQ = [⟨0x04000000, 0, []⟩] ∧
    Answered Config.freePick [true] 0 true [] 0 ∧ Answered Config.freePick [false] 0 false [] 0 ∧
    Answered Config.freePick waiting.io.picks waiting.io.nextFree (Config.freePick 0) [] 1 :=
  ⟨rfl, rfl, .inl ⟨rfl, rfl⟩, .inl ⟨rfl, rfl⟩, .inr ⟨rfl, rfl, rfl, rfl⟩⟩

theorem witness_PresentedWordRunsNext : decodeTableWord 32 0x08000000 = some .tick := by decide

/-- Opcodes 0x00, 0x09 and 0xFF. -/
theorem witness_UndefinedOpcodeIsRefused :
    (asking 0x00000000).io.resetReq = false ∧ (asking 0x00000000).accept = some (ported 0x00000000 0 [] one) ∧
    (asking 0x09000000).accept = some (ported 0x09000000 0 [] one) ∧
    (asking 0xFF000000).accept = some (ported 0xFF000000 0 [] one) ∧
    ((0x00000000 : CommandWord).extractLsb' 24 8).toNat = 0 ∧ 9 ≤ ((0x09000000 : CommandWord).extractLsb' 24 8).toNat ∧
    9 ≤ ((0xFF000000 : CommandWord).extractLsb' 24 8).toNat := by decide

theorem witness_IdleStepChangesNothing : one.io.resetReq = false ∧ one.io.mainQ = [] ∧ one.io.intQ = [] := by decide

theorem witness_ParametersNeverChange : step one = .next one := rfl

theorem witness_ResetEventEmptiesTheBlock : { one with io := { one.io with resetReq := true } }.io.resetReq = true := rfl

theorem witness_NowAnswersElapsedTime :
    (0x01FFFFFF : CommandWord).extractLsb' 24 8 = 0x01 ∧ Answered Config.freeRaw [7] 0 7 [] 0 ∧
    Answered Config.freeRaw one.io.raws one.io.nextFree (Config.freeRaw 0) [] 1 :=
  ⟨by decide, .inl ⟨rfl, rfl⟩, .inr ⟨rfl, rfl, rfl, rfl⟩⟩

/-- N1 calls 2 and 3 (a wrap), 4 and 5 (none), with room above. -/
theorem witness_NowIsMonotonic :
    let a := answering [0xFFFF, 0x0000] [] (holding .w16 [])
    let b := answering [0x0000, 0x8000] [] ((holding .w16 []).setTime 0 65536)
    TimeInv a.cfg.rawWidth a.blk ∧ (now (now a).2).2.blk.lastRaw.toNat < (now a).2.blk.lastRaw.toNat ∧
    (now a).2.blk.accHigh.toNat + 2 ^ a.cfg.rawWidth.bits < 2 ^ 64 ∧
    TimeInv b.cfg.rawWidth b.blk ∧ (now b).2.blk.lastRaw.toNat ≤ (now (now b).2).2.blk.lastRaw.toNat := by decide

/-- N5. -/
theorem witness_NowIsExactUnderTheCadence :
    (∀ T ∈ [60000, 120000, 180000].head?, T < 2 ^ (config .w16).rawWidth.bits) ∧
    [60000, 120000, 180000].IsChain (fun T T' => T ≤ T' ∧ T' - T < 2 ^ (config .w16).rawWidth.bits) := by decide

/-- N4. -/
theorem witness_UnseenWrapsAreLost :
    let s := answering [0x1000, 0x1000] [] (holding .w16 [])
    4096 ≤ 69632 ∧ s.io.raws = idealSample s.cfg.rawWidth 4096 :: idealSample s.cfg.rawWidth 69632 :: [] := by decide

theorem witness_NowCornerCases :
    let a := answering [5, 5] [] (holding .w16 [])
    let b := answering [0] [] ((holding .w16 []).setTime 0xFFFF 0)
    (now (now a).2).2.blk.lastRaw = (now a).2.blk.lastRaw ∧ (now b).2.blk.lastRaw < b.blk.lastRaw ∧
    State.reset.blk = Block.reset State.reset.cfg := by decide

/-- A fresh, a registered and a zero identifier; the first and the last free slot; a full table. -/
theorem witness_RegisterFollowsItsRule :
    (0x02025000 : CommandWord).extractLsb' 24 8 = 0x02 ∧
    ((1 : VarId) ≠ 0 ∧ ¬NotRegistered one.blk.slots 1) ∧
    ((255 : VarId) ≠ 0 ∧ NotRegistered full.blk.slots 255 ∧ ∀ sl ∈ full.blk.slots, sl.occupied = true) ∧
    (NotRegistered (holding .w32 []).blk.slots 255 ∧ FirstUnoccupied (holding .w32 []).blk.slots 0 Slot.empty) ∧
    (NotRegistered three.blk.slots 4 ∧ FirstUnoccupied three.blk.slots 3 Slot.empty) := by
  refine ⟨by decide, ⟨by decide, ?_⟩, ⟨by decide, ?_, by decide⟩, ⟨?_, rfl, rfl, fun j hj => absurd hj (by omega)⟩,
    ?_, rfl, rfl, ?_⟩
  · unfold NotRegistered; decide
  · unfold NotRegistered; decide
  · unfold NotRegistered; decide
  · unfold NotRegistered; decide
  · intro j hj x hx
    match j, hj with
    | 0, _ => cases hx; rfl
    | 1, _ => cases hx; rfl
    | 2, _ => cases hx; rfl

theorem witness_RegisterSucceedsBelowCapacity :
    (RegistryInv three.blk.slots ∧ (4 : VarId) ≠ 0 ∧ NotRegistered three.blk.slots 4 ∧
      three.blk.slots.countP (·.occupied) < three.blk.slots.length) ∧
    RegistryInv full.blk.slots ∧ NotRegistered full.blk.slots 255 ∧
      full.blk.slots.countP (·.occupied) = full.blk.slots.length := by
  unfold NotRegistered
  decide

theorem witness_RegisterTwiceIsDuplicate :
    register one.blk.slots 2 (some .fast) .bool =
      .ok (one.blk.slots.modify 1 (·.declare 2 .bool .fast)) := by decide

/-- `find(id)` at the first and at the last occupied slot; a width of 4 and one of 1; wrong counts. -/
theorem witness_SubmitFollowsItsRule :
    (0x0301C004 : CommandWord).extractLsb' 24 8 = 0x03 ∧ NotRegistered one.blk.slots 2 ∧
    FirstHolder three.blk.slots 3 0 (slot 3 .bool 0x01 0 0 0 true) ∧
    FirstHolder three.blk.slots 2 2 (slot 2 .float32 0x00 0x00 0x80 0x3F true) ∧
    (1 : BitVec 9).toNat = VarType.bool.width ∧ (4 : BitVec 9).toNat = VarType.float32.width ∧
    (0 : BitVec 9).toNat ≠ VarType.float32.width ∧ (511 : BitVec 9).toNat ≠ VarType.bool.width := by
  refine ⟨by decide, ?_, ⟨rfl, rfl, rfl, fun j hj => absurd hj (by omega)⟩, ⟨rfl, rfl, rfl, ?_⟩, by decide⟩
  · unfold NotRegistered; decide
  · intro j hj x hx
    match j, hj with
    | 0, _ => cases hx; decide
    | 1, _ => cases hx; decide

theorem witness_LastSubmitWins :
    submit one.blk.slots 1 (4 : BitVec 9).toNat [] = .ok (one.blk.slots.modify 0 (·.store [])) := by decide

theorem witness_SubmittedValueIsPending :
    RegistryInv one.blk.slots ∧ FirstHolder one.blk.slots 1 0 (slot 1 .int32 0x2A 0 0 0 true) ∧
    (4 : BitVec 9).toNat = VarType.int32.width ∧
    ∀ x ∈ one.blk.slots, x.id ≠ 1 → x.rclass = .veryFast → x.dirty = false :=
  ⟨by decide, ⟨rfl, rfl, rfl, fun j hj => absurd hj (by omega)⟩, by decide, by decide⟩

theorem witness_PendingFollowsItsRule :
    (0x04004000 : CommandWord).extractLsb' 24 8 = 0x04 ∧ RegistryInv three.blk.slots ∧
    pendingList .veryFast three.blk.slots ≠ [] := by decide

theorem witness_ClearFollowsItsRule : (0x05008000 : CommandWord).extractLsb' 24 8 = 0x05 := by decide

theorem witness_ClearedClassStaysEmpty :
    pendingList .slow three.blk.slots = [] ∧ (∀ id n, Instr.clear (some .fast) ≠ .submit id n) ∧
    exec (.clear (some .fast)) three = .next ((clearClass .fast three).succeed 0 []) :=
  ⟨by decide, fun _ _ => by simp, rfl⟩

/-- An operation that sets the flag, one that clears it, one that leaves it. -/
theorem witness_DirtyFlagLife :
    exec (.clear (some .veryFast)) one = .next ((clearClass .veryFast one).succeed 0 []) ∧
    exec (.submit 1 4) one = .next (one.commitSlots (submit one.blk.slots 1 4 [])) ∧
    exec (.decode 257) one = .next (one.raise .illegalCommand) ∧
    one.blk.slots[0]? = some (slot 1 .int32 0x2A 0 0 0 true) :=
  ⟨rfl, rfl, rfl, rfl⟩

/-- A list of `k` four-byte entries and `b` Bool entries. -/
def wide (k : Nat) (b : Nat) : List Entry :=
  List.replicate k ⟨1, .int32, [0, 0, 0, 0]⟩ ++ List.replicate b ⟨2, .bool, [0]⟩

/-- 2.6: 248 bytes are the most that fit, 249 the least that do not. -/
theorem witness_EncodeFailsExactlyAboveTheLimit :
    (encodeList (config .w32) (wide 0 124) 0).isSome = true ∧ encodeList (config .w32) (wide 49 2) 0 = none := by decide +kernel

/-- `n` dirty Int32 variables of class VeryFast. -/
def crowd (n : Nat) : List Slot := (List.range n).map fun i => slot (BitVec.ofNat 8 (i + 1)) .int32 0 0 0 0 true

theorem witness_EncodeFollowsItsRule :
    (0x0600C000 : CommandWord).extractLsb' 24 8 = 0x06 ∧
    248 < ((pendingList .veryFast (crowd 50)).map fun e => 1 + e.vtype.width).sum ∧
    ((pendingList .veryFast one.blk.slots).map fun e => 1 + e.vtype.width).sum ≤ 248 := by decide +kernel

/-- F1. -/
theorem witness_FrameLayout : encodeList one.cfg (pendingList .veryFast one.blk.slots) 600000 = some f1 := by decide

theorem witness_DecodeReadsBackEncode :
    encodeList one.cfg (pendingList .veryFast one.blk.slots) 600000 = some f1 := witness_FrameLayout

/-- F1 decoded. -/
theorem witness_TrailingBytesAreIgnored :
    decodeFrame one.cfg one.blk.slots f1 =
      .ok { time := 600000, region := [1, 0x2A, 0, 0, 0], pairs := [(1, [0x2A, 0, 0, 0])] } := by decide

/-- F1 from the encoder and into the decoder, the first and the last TIMESTAMP byte. -/
theorem witness_TimestampIsLittleEndian :
    encodeList one.cfg (pendingList .veryFast one.blk.slots) 600000 = some f1 ∧
    (∃ d, decodeFrame one.cfg one.blk.slots f1 = .ok d) ∧ 0 < 4 ∧ 3 < 4 ∧ (le32 600000).length = 4 :=
  ⟨witness_FrameLayout, ⟨_, witness_TrailingBytesAreIgnored⟩, by decide, by decide, by decide⟩

/-- The first and the last TIMESTAMP byte, the lowest and the highest bit. -/
theorem witness_EvenColumnFlipIsAccepted :
    (∃ d, decodeFrame one.cfg one.blk.slots f1 = .ok d) ∧ 2 ≤ 2 ∧ 2 < 5 ∧ 5 ≤ 5 ∧ 0 < 8 ∧ 7 < 8 :=
  ⟨⟨_, witness_TrailingBytesAreIgnored⟩, by decide⟩

/-- The region of F1 is cut into one pair. -/
theorem witness_CutsInto : CutsInto one.blk.slots [1, 0x2A, 0, 0, 0] [(1, [0x2A, 0, 0, 0])] := by
  refine ⟨rfl, fun p hp => ?_⟩
  obtain rfl := List.mem_singleton.1 hp
  exact ⟨0, _, ⟨rfl, rfl, rfl, fun j hj => absurd hj (by omega)⟩, rfl⟩

/-- Each test of DECODE: X10 (no byte, a wrong START, one byte, a cut frame), X2 (END), X5a (checksum), X7a (a region
that is cut into no pairs), F1. -/
theorem witness_DecodeFollowsItsRule :
    256 < (257 : BitVec 9).toNat ∧ (0 : BitVec 9).toNat = 0 ∧
    (1 ≤ (1 : BitVec 9).toNat ∧ wbufByte [0x00] 0 ≠ one.cfg.startByte) ∧
    ((1 : BitVec 9).toNat = 1 ∧ wbufByte f1 0 = one.cfg.startByte) ∧
    (2 ≤ (12 : BitVec 9).toNat ∧ (12 : BitVec 9).toNat < (wbufByte f1 1).toNat + 8) ∧
    ((wbufByte f1 1).toNat + 8 ≤ (13 : BitVec 9).toNat ∧ (13 : BitVec 9).toNat ≤ 256 ∧
      wbufByte f1 (7 + (wbufByte f1 1).toNat) = one.cfg.endByte ∧
      xorAll ((wbufPrefix f1 13).take (6 + (wbufByte f1 1).toNat)) = wbufByte f1 (6 + (wbufByte f1 1).toNat)) ∧
    wbufByte (f1.set 12 0xD5) (7 + (wbufByte f1 1).toNat) ≠ one.cfg.endByte ∧
    xorAll ((wbufPrefix (f1.set 3 0x37) 13).take (6 + (wbufByte f1 1).toNat)) ≠
      wbufByte (f1.set 3 0x37) (6 + (wbufByte f1 1).toNat) ∧
    parsePairs one.blk.slots 5 [2, 0x2A, 0, 0, 0] = none ∧
    (0x07000101 : CommandWord).extractLsb' 24 8 = 0x07 := by decide

theorem witness_ReservedIdIsNeverAccepted : NoZeroId one.blk.slots ∧ CutsInto one.blk.slots [] [] :=
  ⟨by decide, rfl, fun _ h => by cases h⟩

/-- Offsets 2 and 11 (inside), 0 and 12 (the sentinels), a LENGTH bit that is 0. -/
theorem witness_SingleBitFlipIsDetected :
    2 + 1 < f1.length ∧ 11 + 1 < f1.length ∧ 12 + 1 = f1.length ∧ (byteAt f1 1).getLsbD 1 = false ∧
    encodeList one.cfg (pendingList .veryFast one.blk.slots) 600000 = some f1 := by decide

/-- Payloads, classes and dirty flags differ, the declarations do not. -/
theorem witness_DecodeReadsOnlyDeclarations :
    declarations [slot 1 .int32 0 0 0 0 false] = declarations [{ slot 1 .int32 7 0 0 0 true with rclass := .slow }] := by
  decide

/-- Each case of TICK: not due at 999, due and empty at 1000, too large, refused, sent; with and without listed
answers. -/
theorem witness_TickFollowsItsRule :
    (0x08ABCDEF : CommandWord).extractLsb' 24 8 = 0x08 ∧ Answered Config.freeRaw [999] 0 999 [] 0 ∧
    (accAfter .w32 0 0 999 + zext64 999) - one.blk.lastSent.get .veryFast < one.cfg.interval.get .veryFast ∧
    one.cfg.interval.get .veryFast ≤ (accAfter .w32 0 0 1000 + zext64 1000) - one.blk.lastSent.get .veryFast ∧
    pendingList .veryFast (holding .w32 []).blk.slots = [] ∧ Answered Config.freeRaw [] 1 (Config.freeRaw 1) [] 2 ∧
    pendingList .veryFast (crowd 50) ≠ [] ∧ encodeList (config .w32) (pendingList .veryFast (crowd 50)) 1000 = none ∧
    pendingList .veryFast one.blk.slots ≠ [] ∧
    encodeList one.cfg (pendingList .veryFast one.blk.slots) 600000 = some f1 ∧
    Answered Config.freeTransmit [false] 0 false [] 0 ∧ Answered Config.freeTransmit [true] 0 true [] 0 :=
  ⟨by decide, .inl ⟨rfl, rfl⟩, by decide, by decide, by decide, .inr ⟨rfl, rfl, rfl, rfl⟩, by decide +kernel,
    by decide +kernel, by decide, by decide, .inl ⟨rfl, rfl⟩, .inl ⟨rfl, rfl⟩⟩

theorem witness_TickLeavesEveryClassIdle : AllIdle one.blk := rfl

/-- A class not due, one refused by the transport, one too large. -/
theorem witness_UnsentClassKeepsItsValues :
    ((tickWalk (answering [999, 999, 999] [] one)).results.get .veryFast).Unsent ∧
    ((tickWalk (answering [1000, 1000, 1000] [false] one)).results.get .veryFast).Unsent ∧
    ((tickWalk (answering [1000, 1000, 1000] [] (one.setSlots (crowd 50)))).results.get .veryFast).Unsent ∧
    one.blk.slots[0]? = some (slot 1 .int32 0x2A 0 0 0 true) := by
  unfold TickResult.Unsent
  decide +kernel

theorem witness_SentClassIsClearedAfterConfirm :
    (tickClass .veryFast (answering [600000, 600003] [true] one)).1 = .sent := by decide

theorem witness_ClassesAreIndependent : RateClass.slow ≠ RateClass.veryFast := by decide

theorem witness_OversizedClassStaysUnsent :
    249 ≤ regionLength (pendingList .veryFast (one.setSlots (crowd 50)).blk.slots) ∧
    Instr.tick ≠ .clear (some .veryFast) ∧
    exec .now (one.setSlots (crowd 50)) = .next ((now (one.setSlots (crowd 50))).2.succeed
      (now (one.setSlots (crowd 50))).1 []) :=
  ⟨by decide +kernel, by decide, rfl⟩

/-- A machine that has sent F1. -/
theorem witness_StepKeepsFramesWellFormed :
    WellFramed one.cfg f1 ∧ FramesSent { one with io := { one.io with calls := [.transmit f1 true] } } ∧
    step one = .next one := by
  refine ⟨by decide, ?_, rfl⟩
  intro f ok h
  obtain ⟨rfl, -⟩ : f = f1 ∧ ok = true := by simpa using h
  decide

theorem witness_StepKeepsInvariant : MachineInv three ∧ step three = .next three := ⟨by decide, rfl⟩

/-- An error and a success. -/
theorem witness_ErrorsChangeNothing :
    Instr.submit 9 4 ≠ .tick ∧ answer (exec (.submit 9 4) one) = some ⟨.unknownId, 0, []⟩ ∧
    answer (exec (.submit 1 4) one) = some ⟨.ok, 0, []⟩ := by decide

theorem witness_QueriesChangeNothingAndRepeat :
    (∃ c, Instr.pending none = .pending c) ∧ (∃ c, Instr.encode (some .slow) = .encode c) ∧
    ∃ n, Instr.decode 511 = .decode n := ⟨⟨_, rfl⟩, ⟨_, rfl⟩, ⟨_, rfl⟩⟩

theorem witness_OnlyTimeAndTickTouchControlState :
    Instr.pending none ≠ .tick ∧ Instr.pending none ≠ .now ∧
    exec (.pending none) one = .next (one.raise .illegalCommand) := ⟨by decide, by decide, rfl⟩

theorem witness_RegisteredVariablesStay :
    exec (.register 1 none .bool) one = .next (one.raise .illegalCommand) ∧
    one.blk.slots[0]? = some (slot 1 .int32 0x2A 0 0 0 true) ∧ (slot 1 .int32 0x2A 0 0 0 true).occupied = true :=
  ⟨rfl, rfl, rfl⟩

theorem witness_OnlySubmitWritesPayloads :
    exec (.clear (some .veryFast)) one = .next ((clearClass .veryFast one).succeed 0 []) ∧
    one.blk.slots[0]? = some (slot 1 .int32 0x2A 0 0 0 true) ∧
    ∀ n, Instr.clear (some .veryFast) ≠ .submit (slot 1 .int32 0x2A 0 0 0 true).id n :=
  ⟨rfl, rfl, fun _ => by simp⟩

end Sys2Proof.Tests
end

section
/-! The TIMESTAMP field of a frame, byte by byte, in the encoder and in the decoder (spec/20_memory.md R63). -/

namespace Sys2Proof

theorem byteAt_drop (s : List Byte) (n i : Nat) : byteAt (s.drop n) i = byteAt s (n + i) := by
  simp [byteAt, List.getD]

/-- Byte `i` of `le32` is bits `8i+7..8i`. -/
theorem byteAt_le32 (v : BitVec 32) {i : Nat} (h : i < 4) : byteAt (le32 v) i = v.extractLsb' (8 * i) 8 := by
  match i, h with
  | 0, _ | 1, _ | 2, _ | 3, _ => rfl

/-- The bytes of a sequence whose TIMESTAMP field is `le32` of `v`. -/
theorem byteAt_of_timestamp {f : List Byte} {v : BitVec 32} (hf : (f.drop 2).take 4 = le32 v) {i : Nat} (hi : i < 4) :
    byteAt f (2 + i) = v.extractLsb' (8 * i) 8 := by
  rw [← byteAt_le32 v hi, ← hf, byteAt_take hi, byteAt_drop]

/-- Truncation to 32 bits keeps the four low bytes of a time. -/
theorem trunc32_extractLsb' (t : Time) {i : Nat} (h : i < 4) :
    (trunc32 t).extractLsb' (8 * i) 8 = t.extractLsb' (8 * i) 8 := by
  apply BitVec.eq_of_getLsbD_eq
  intro j hj
  have hlow : 8 * i + j < 32 := by omega
  simp [trunc32, hlow]

namespace Machine

/-- The TIMESTAMP field of an encoded frame (R205). -/
theorem encodeList_timestamp {cfg : Config} {p : List Entry} {t : Time} {f : List Byte}
    (h : encodeList cfg p t = some f) : (f.drop 2).take 4 = le32 (trunc32 t) := by
  obtain ⟨-, rfl⟩ := encodeList_eq_some_iff.1 h
  rfl

/-- The time of an accepted frame is the one its TIMESTAMP field spells. -/
theorem le32_decodeFrame_time {cfg : Config} {slots : List Slot} {bytes : List Byte} {d : Decoded}
    (h : decodeFrame cfg slots bytes = .ok d) : le32 d.time = (bytes.drop 2).take 4 := by
  obtain ⟨-, hlen, -, -, -, htime, -⟩ := decodeFrame_eq_ok_iff.1 h
  rw [htime]
  exact le32_fromLe32 (by simp; omega)

/-- Settles O33: on either side the TIMESTAMP field is `le32` of a 32-bit time, in the encoder the truncated one, in
the decoder the decoded one. -/
theorem timestampIsLittleEndian : Obligations.TimestampIsLittleEndian := by
  refine ⟨fun cfg p t f h i hi => ?_, fun cfg slots bytes d h i hi => ?_, fromLe32_le32, fun b => le32_fromLe32⟩
  · rw [byteAt_of_timestamp (encodeList_timestamp h) hi, trunc32_extractLsb' t hi]
  · exact (byteAt_of_timestamp (le32_decodeFrame_time h).symm hi).symm

end Machine
end Sys2Proof
end

section
/-! The bytes of an encoded frame, field by field (spec/30_encoding.md R90, R92, R95). -/

namespace Sys2Proof.Machine

/-- LENGTH holds `L` itself: at most 248, it fits the byte (R92). -/
theorem encodeList_lengthByte {cfg : Config} {p : List Entry} {t : Time} {f : List Byte}
    (h : encodeList cfg p t = some f) : (byteAt f 1).toNat = regionLength p := by
  obtain ⟨hL, rfl⟩ := encodeList_eq_some_iff.1 h
  exact Nat.mod_eq_of_lt (by omega)

theorem encodeList_startByte {cfg : Config} {p : List Entry} {t : Time} {f : List Byte}
    (h : encodeList cfg p t = some f) : byteAt f 0 = cfg.startByte := by
  obtain ⟨-, rfl⟩ := encodeList_eq_some_iff.1 h
  rfl

/-- What follows the six bytes of START, LENGTH and TIMESTAMP: the pair region, the checksum, END. -/
theorem encodeList_drop_six {cfg : Config} {p : List Entry} {t : Time} {f : List Byte}
    (h : encodeList cfg p t = some f) :
    f.drop 6 = pairRegion p ++ [xorAll (coveredBytes cfg p t), cfg.endByte] := by
  obtain ⟨-, rfl⟩ := encodeList_eq_some_iff.1 h
  rfl

/-- The checksum of R95 and END follow the pair region; `hp` says that the region is as long as LENGTH says. -/
theorem encodeList_trailer {cfg : Config} {p : List Entry} {t : Time} {f : List Byte}
    (h : encodeList cfg p t = some f) (hp : (pairRegion p).length = regionLength p) :
    byteAt f (6 + regionLength p) = xorAll (f.take (6 + regionLength p)) ∧
      byteAt f (7 + regionLength p) = cfg.endByte := by
  obtain ⟨-, rfl⟩ := encodeList_eq_some_iff.1 h
  have hcov : (coveredBytes cfg p t).length = 6 + regionLength p := by rw [coveredBytes_length, hp]
  constructor
  · rw [List.take_left' hcov, byteAt_append_right _ hcov.le, hcov, Nat.sub_self]
    rfl
  · rw [byteAt_append_right _ (by omega), hcov, show 7 + regionLength p - (6 + regionLength p) = 1 by omega]
    rfl

theorem encodeList_length {cfg : Config} {p : List Entry} {t : Time} {f : List Byte}
    (h : encodeList cfg p t = some f) (hp : (pairRegion p).length = regionLength p) :
    f.length = regionLength p + 8 := by
  obtain ⟨-, rfl⟩ := encodeList_eq_some_iff.1 h
  simp only [List.length_append, coveredBytes_length, hp, List.length_cons, List.length_nil]
  omega

/-- Settles O32: LENGTH is `L`, and the pair region of a pending list is `L` bytes long, which places every other
field. -/
theorem frameLayout : Obligations.FrameLayout := by
  intro cfg c slots t f h
  have hp := pendingRegion_length c slots
  obtain ⟨hsum, htail⟩ := encodeList_trailer h hp
  rw [encodeList_lengthByte h]
  refine ⟨rfl, (encodeList_eq_some_iff.1 h).1, encodeList_length h hp, encodeList_startByte h, encodeList_timestamp h,
    ?_, fun e => payload_length_of_mem, hsum, htail⟩
  rw [encodeList_drop_six h, List.take_left' hp]
  rfl

end Sys2Proof.Machine
end

section
/-! Identifiers in the registry as the statements speak of them, and the reserved identifier 0 in REGISTER, SUBMIT and
the cut of a pair region (spec/30_encoding.md R110). -/

namespace Sys2Proof.Machine

/-- `FirstHolder` is the model's `find` together with the slot found. -/
theorem firstHolder_iff {slots : List Slot} {id : VarId} {k : Nat} {sl : Slot} :
    FirstHolder slots id k sl ↔ find slots id = some k ∧ slotAt slots k = sl := by
  simp only [FirstHolder, find_eq_some_iff, holds_iff, holds_eq_false_iff]
  constructor
  · rintro ⟨hk, hocc, hid, hfirst⟩
    exact ⟨⟨sl, hk, ⟨hocc, hid⟩, hfirst⟩, slotAt_of_getElem? hk⟩
  · rintro ⟨⟨sl', hk, ⟨hocc, hid⟩, hfirst⟩, hsl⟩
    obtain rfl : sl' = sl := (slotAt_of_getElem? hk).symm.trans hsl
    exact ⟨hk, hocc, hid, hfirst⟩

/-- `CutsInto` in terms of `find`, as `parsePairs_sound` and `parsePairs_complete` state it. -/
theorem cutsInto_iff {slots : List Slot} {region : List Byte} {ps : List Pair} :
    CutsInto slots region ps ↔ region = ps.flatMap (fun p => p.1 :: p.2) ∧
      ∀ p ∈ ps, ∃ k, find slots p.1 = some k ∧ p.2.length = (slotAt slots k).vtype.width := by
  simp only [CutsInto, firstHolder_iff, and_assoc, exists_and_left, exists_eq_left']

/-- Under R23 (b) identifier 0 is not registered. -/
theorem find_zero {slots : List Slot} (h : NoZeroId slots) : find slots 0 = none :=
  find_eq_none_iff.2 fun sl hsl => holds_eq_false_iff.2 fun ⟨hocc, hid⟩ => h sl hsl hocc hid

theorem register_zero (slots : List Slot) (c : RateClass) (vt : VarType) :
    register slots 0 (some c) vt = .error .invalidId := rfl

theorem submit_of_find_none {slots : List Slot} {id : VarId} (h : find slots id = none) (n : Nat) (w : List Byte) :
    submit slots id n w = .error .unknownId := by
  simp only [submit, h]

/-- REGISTER answers the error of its tests and changes nothing. -/
theorem exec_register_of_error {s : State} {id : VarId} {rc : Option RateClass} {vt : VarType} {e : Status}
    (h : register s.blk.slots id rc vt = .error e) : exec (.register id rc vt) s = .next (s.respond ⟨e, 0, []⟩) := by
  change execRegister id rc vt s = _
  rw [execRegister, h]
  rfl

/-- SUBMIT answers the error of its tests and changes nothing. -/
theorem exec_submit_of_error {s : State} {id : VarId} {n : BitVec 9} {e : Status}
    (h : submit s.blk.slots id n.toNat s.io.port.wbuf = .error e) :
    exec (.submit id n) s = .next (s.respond ⟨e, 0, []⟩) := by
  change execSubmit id n s = _
  rw [execSubmit, h]
  rfl

/-- An unregistered identifier ends the cut, whatever the fuel. -/
theorem parsePairs_of_find_none {slots : List Slot} {id : VarId} (h : find slots id = none) (rest : List Byte)
    (n : Nat) : parsePairs slots n (id :: rest) = none := by
  cases n with
  | zero => rfl
  | succ n => rw [parsePairs_cons, h]

/-- A region that goes on after some pairs with bytes that are not cut is not cut itself. -/
theorem parsePairs_append_eq_none {slots : List Slot} {bad : List Byte} (hbad : ∀ n, parsePairs slots n bad = none)
    (ps : List Pair) (h : ∀ p ∈ ps, ∃ k, find slots p.1 = some k ∧ p.2.length = (slotAt slots k).vtype.width) (n : Nat) :
    parsePairs slots n (ps.flatMap (fun p => p.1 :: p.2) ++ bad) = none := by
  induction ps generalizing n with
  | nil => exact hbad n
  | cons p ps ih =>
    obtain ⟨k, hk, hw⟩ := h p List.mem_cons_self
    cases n with
    | zero => rfl
    | succ n =>
      rw [List.flatMap_cons, List.append_assoc, List.cons_append, parsePairs_cons, hk]
      simp only [← hw, List.drop_left, ih (fun q hq => h q (List.mem_cons_of_mem _ hq)) n, Option.map_none, ite_self]

/-- Settles O37: REGISTER tests for 0 first, and `find(0)` is none, which SUBMIT and the cut both look at. -/
theorem reservedIdIsNeverAccepted : Obligations.ReservedIdIsNeverAccepted := by
  intro s hzero
  have hfind := find_zero hzero
  refine ⟨fun c vt => exec_register_of_error (register_zero _ c vt),
    fun n => exec_submit_of_error (submit_of_find_none hfind _ _), fun front rest pairs hcut => ?_⟩
  obtain ⟨rfl, hpairs⟩ := cutsInto_iff.1 hcut
  exact parsePairs_append_eq_none (parsePairs_of_find_none hfind rest) pairs hpairs _

end Sys2Proof.Machine
end

section
/-! The time source (spec/40_time_source.md): what one poll does with its sample, whatever the environment answers, and
the advance of the time from one poll to the next, on which R135 to R137 turn. -/

namespace Sys2Proof

/-- By how much a sample is ahead of the previous one, counted modulo the wrap period `2^W`. -/
def RawWidth.advance (w : RawWidth) (last raw : Raw) : Nat :=
  (raw.toNat + 2 ^ w.bits - last.toNat) % 2 ^ w.bits

theorem RawWidth.advance_lt (w : RawWidth) (last raw : Raw) : w.advance last raw < 2 ^ w.bits :=
  Nat.mod_lt _ (Nat.two_pow_pos _)

theorem RawWidth.two_pow_bits_le (w : RawWidth) : 2 ^ w.bits ≤ 2 ^ 32 := by cases w <;> decide

theorem RawWidth.advance_of_le {w : RawWidth} {last raw : Raw} (hraw : raw.toNat < 2 ^ w.bits)
    (h : last.toNat ≤ raw.toNat) : w.advance last raw = raw.toNat - last.toNat := by
  rw [advance, show raw.toNat + 2 ^ w.bits - last.toNat = raw.toNat - last.toNat + 2 ^ w.bits by omega,
    Nat.add_mod_right, Nat.mod_eq_of_lt (by omega)]

theorem RawWidth.advance_of_lt {w : RawWidth} {last raw : Raw} (hlast : last.toNat < 2 ^ w.bits)
    (h : raw.toNat < last.toNat) : w.advance last raw = 2 ^ w.bits - (last.toNat - raw.toNat) := by
  rw [advance, Nat.mod_eq_of_lt (by omega)]
  omega

/-- One wrap more keeps a multiple of the wrap period one, also where it passes `2^64`. -/
theorem RawWidth.add_wrap_mod {w : RawWidth} {acc : Time} (h : acc.toNat % 2 ^ w.bits = 0) :
    (acc + w.wrap).toNat % 2 ^ w.bits = 0 := by
  rw [BitVec.toNat_add, w.wrap_toNat]
  cases w <;> simp only [RawWidth.bits] at h ⊢ <;> omega

namespace Machine

theorem idealSample_toNat (w : RawWidth) (T : Nat) : (idealSample w T).toNat = T % 2 ^ w.bits := by
  have hlt : T % 2 ^ w.bits < 2 ^ w.bits := Nat.mod_lt _ (Nat.two_pow_pos _)
  exact Nat.mod_eq_of_lt (hlt.trans_le w.two_pow_bits_le)

/-- The port passes an ideal sample unchanged: it has `W` bits. -/
theorem sample_idealSample (w : RawWidth) (T : Nat) : w.sample (idealSample w T) = idealSample w T := by
  apply BitVec.eq_of_toNat_eq
  rw [w.sample_toNat, idealSample_toNat, Nat.mod_mod]

/-- Ideal samples are as far apart as the true times, modulo the wrap period. -/
theorem advance_idealSample (w : RawWidth) {T T' : Nat} (h : T ≤ T') :
    w.advance (idealSample w T) (idealSample w T') = (T' - T) % 2 ^ w.bits := by
  rw [RawWidth.advance, idealSample_toNat, idealSample_toNat]
  cases w <;> simp only [RawWidth.bits] <;> omega

/-- What the environment answers is what `draw` takes. -/
theorem draw_of_answered {α : Type} {free : Nat → α} {listed rest : List α} {n n' : Nat} {a : α}
    (h : Answered free listed n a rest n') : draw free listed n = { value := a, rest := rest, next := n' } := by
  obtain ⟨rfl, rfl⟩ | ⟨rfl, rfl, rfl, rfl⟩ := h <;> rfl

/-- One read of the raw counter, by its answer. -/
theorem readRaw_of_answered {s : State} {a : Raw} {rest : List Raw} {n : Nat}
    (h : Answered Config.freeRaw s.io.raws s.io.nextFree a rest n) :
    readRaw s = (s.cfg.rawWidth.sample a, { s with io := { s.io with
      raws := rest
      nextFree := n
      calls := s.io.calls ++ [.readRaw (s.cfg.rawWidth.sample a)] } }) := by
  rw [readRaw, draw_of_answered h]

/-- A listed answer is the sample read, and the answers after it stay. -/
theorem readRaw_of_listed {s : State} {a : Raw} {rest : List Raw} (h : s.io.raws = a :: rest) :
    (readRaw s).1 = s.cfg.rawWidth.sample a ∧ (readRaw s).2.io.raws = rest := by
  rw [readRaw_of_answered (.inl ⟨h, rfl⟩)]
  exact ⟨rfl, rfl⟩

theorem exec_now (s : State) : exec .now s = .next ((now s).2.succeed (now s).1 []) := rfl

theorem decode_of_opcode_now {cw : CommandWord} (h : opField cw = 0x01) : decode cw = .ok .now := if_pos h

/-- Settles O15: the read by its answer, put into NOW. -/
theorem nowAnswersElapsedTime : Obligations.NowAnswersElapsedTime := by
  refine ⟨fun cw => decode_of_opcode_now, fun s a rest n h => ?_⟩
  rw [exec_now, now, readRaw_of_answered h]
  rfl

/-- R27 holds after a poll if it held before. -/
theorem now_timeInv {s : State} (h : TimeInv s.cfg.rawWidth s.blk) : TimeInv s.cfg.rawWidth (now s).2.blk := by
  obtain ⟨-, hacc⟩ := h
  refine ⟨readRaw_lt s, ?_⟩
  rw [now_accHigh]
  split
  · exact RawWidth.add_wrap_mod hacc
  · exact hacc

/-- The time that the time source holds, which is what the last poll answered (`now_value`). -/
def Block.elapsed (b : Block) : Time := b.accHigh + zext64 b.lastRaw

/-- A poll advances the time by what its sample is ahead of the last one, modulo the wrap period. -/
theorem now_value_eq_elapsed_add {s : State} (h : s.blk.lastRaw.toNat < 2 ^ s.cfg.rawWidth.bits) :
    (now s).1 = s.blk.elapsed + BitVec.ofNat 64 (s.cfg.rawWidth.advance s.blk.lastRaw (readRaw s).1) := by
  apply BitVec.eq_of_toNat_eq
  rw [now_value, now_accHigh, now_blk_lastRaw]
  split
  next hlt =>
    rw [RawWidth.advance_of_lt h hlt]
    simp only [Block.elapsed, BitVec.toNat_add, BitVec.toNat_ofNat, zext64_toNat, RawWidth.wrap_toNat]
    have hlt' := BitVec.lt_def.1 hlt
    omega
  next hle =>
    rw [RawWidth.advance_of_le (readRaw_lt s) (by simpa [BitVec.lt_def] using hle)]
    simp only [Block.elapsed, BitVec.toNat_add, BitVec.toNat_ofNat, zext64_toNat]
    have hle' := mt BitVec.lt_def.2 hle
    omega

/-- The second of two polls exceeds the first by the advance of the samples. -/
theorem now_now_value (s : State) : (now (now s).2).1 =
    (now s).1 + BitVec.ofNat 64 (s.cfg.rawWidth.advance (now s).2.blk.lastRaw (now (now s).2).2.blk.lastRaw) :=
  now_value_eq_elapsed_add (readRaw_lt s)

theorem now_now_sub_toNat (s : State) : ((now (now s).2).1 - (now s).1).toNat =
    s.cfg.rawWidth.advance (now s).2.blk.lastRaw (now (now s).2).2.blk.lastRaw := by
  rw [now_now_value, BitVec.add_comm, BitVec.add_sub_cancel, BitVec.toNat_ofNat]
  have hadv := s.cfg.rawWidth.advance_lt (now s).2.blk.lastRaw (now (now s).2).2.blk.lastRaw
  have hW := s.cfg.rawWidth.two_pow_bits_le
  exact Nat.mod_eq_of_lt (by omega)

/-- `ts.acc_high` is a multiple of `2^W`, so one wrap period of room below `2^64` is room for two. -/
theorem accHigh_add_two_wraps_le {w : RawWidth} {b : Block} (h : TimeInv w b)
    (hroom : b.accHigh.toNat + 2 ^ w.bits < 2 ^ 64) : b.accHigh.toNat + 2 * 2 ^ w.bits ≤ 2 ^ 64 := by
  obtain ⟨-, hacc⟩ := h
  cases w <;> simp only [RawWidth.bits] at hacc hroom ⊢ <;> omega

/-- With room for two wrap periods above `ts.acc_high`, the second poll does not pass `2^64`. -/
theorem now_now_toNat_of_room {s : State}
    (hroom : (now s).2.blk.accHigh.toNat + 2 * 2 ^ s.cfg.rawWidth.bits ≤ 2 ^ 64) :
    (now (now s).2).1.toNat = (now s).1.toNat + ((now (now s).2).1 - (now s).1).toNat := by
  have hraw := readRaw_lt s
  have hadv := s.cfg.rawWidth.advance_lt (now s).2.blk.lastRaw (now (now s).2).2.blk.lastRaw
  rw [← now_now_sub_toNat] at hadv
  have hfirst : (now s).1.toNat = (now s).2.blk.accHigh.toNat + (readRaw s).1.toNat := by
    rw [now_value, BitVec.toNat_add, zext64_toNat, now_blk_lastRaw, Nat.mod_eq_of_lt (by omega)]
  conv_lhs => rw [← BitVec.sub_add_cancel (now (now s).2).1 (now s).1]
  rw [BitVec.toNat_add, Nat.mod_eq_of_lt (by omega), Nat.add_comm]

/-- Settles O16: the difference is the advance of the samples; with R27 there is room for it. -/
theorem nowIsMonotonic : Obligations.NowIsMonotonic := by
  intro s hinv p q r1 r2 d
  have hd : d = s.cfg.rawWidth.advance p.2.blk.lastRaw q.2.blk.lastRaw := now_now_sub_toNat s
  have hr1 : r1 < 2 ^ s.cfg.rawWidth.bits := readRaw_lt s
  have hr2 : r2 < 2 ^ s.cfg.rawWidth.bits := readRaw_lt p.2
  have hadv := s.cfg.rawWidth.advance_lt p.2.blk.lastRaw q.2.blk.lastRaw
  refine ⟨fun h => hd.trans (RawWidth.advance_of_le hr2 h), fun h => ?_, by omega, fun h => ?_⟩
  · have hwrap := hd.trans (RawWidth.advance_of_lt hr1 h)
    exact ⟨hwrap, by omega⟩
  · have hsum : q.1.toNat = p.1.toNat + d := now_now_toNat_of_room (accHigh_add_two_wraps_le (now_timeInv hinv) h)
    exact ⟨by omega, hsum⟩

/-- Settles O18: two polls differ by the advance of their samples, which for ideal samples is the true difference modulo
the wrap period. -/
theorem unseenWrapsAreLost : Obligations.UnseenWrapsAreLost := by
  intro s T T' rest hT hraws
  obtain ⟨hfirst, hrest⟩ := readRaw_of_listed hraws
  have hsecond := (readRaw_of_listed (s := (now s).2) hrest).1
  rw [now_now_sub_toNat, now_blk_lastRaw, now_blk_lastRaw, hfirst, hsecond, now_cfg, sample_idealSample,
    sample_idealSample, advance_idealSample _ hT]

/-- Settles O19: an equal sample advances the time by 0, a smaller one takes the wrap branch, and no sample
is below the reset value 0. -/
theorem nowCornerCases : Obligations.NowCornerCases := by
  refine ⟨fun s h => ?_, fun s h => ?_, fun s h => ?_⟩
  · rw [now_now_value, h, now_blk_lastRaw, RawWidth.advance_of_le (readRaw_lt s) (Nat.le_refl _), Nat.sub_self]
    exact BitVec.add_zero _
  · rw [now_accHigh, if_pos h]
    rfl
  · have hacc : (now s).2.blk.accHigh = 0 := by
      rw [now_accHigh, h]
      exact if_neg BitVec.not_lt_zero
    refine ⟨?_, hacc⟩
    rw [now_value, hacc]
    exact BitVec.zero_add _

end Machine
end Sys2Proof
end

section
/-! A run of NOW commands under the cadence of spec/40_time_source.md R136. -/

namespace Sys2Proof.Machine

/-- A request of the main context that waits alone is taken. -/
theorem accept_main {s : State} {m : Transaction} {ms : List Transaction} (hmain : s.io.mainQ = m :: ms)
    (hint : s.io.intQ = []) : s.accept = some (s.takeMain m ms) := by
  rw [State.accept, hmain, hint]

/-- Where NOW waits alone, the step performs it. -/
theorem step_now {s : State} {ms : List Transaction} (hreset : s.io.resetReq = false)
    (hmain : s.io.mainQ = nowCommand :: ms) (hint : s.io.intQ = []) :
    step s = exec .now (s.takeMain nowCommand ms) := by
  have hdecode : decode nowCommand.cw = .ok .now := decode_of_opcode_now (by decide)
  simp only [step, hreset, accept_main hmain hint, runCommand, takeMain_io_port, hdecode, Bool.false_eq_true, if_false]

theorem run_succ_of_step {s t : State} (h : step s = .next t) (k : Nat) : core.run (k + 1) s = core.run k t := by
  have hstep : core.step s = .next t := h
  simp only [Host.Core.run, hstep]

/-- The time source stands at the true tick count `T`, one NOW waits for each of `ticks`, and the counter will answer
these tick counts. -/
structure Polling (w : RawWidth) (T : Nat) (ticks : List Nat) (s : State) : Prop where
  width : s.cfg.rawWidth = w
  noReset : s.io.resetReq = false
  main : s.io.mainQ = List.replicate ticks.length nowCommand
  int : s.io.intQ = []
  raws : s.io.raws = ticks.map (idealSample w)
  last : s.blk.lastRaw = idealSample w T
  elapsed : s.blk.elapsed = BitVec.ofNat 64 T

/-- A poll of an ideal counter less than a wrap period after the last one returns the true tick count. -/
theorem now_value_of_cadence {s : State} {T T' : Nat} (hlast : s.blk.lastRaw = idealSample s.cfg.rawWidth T)
    (helapsed : s.blk.elapsed = BitVec.ofNat 64 T) (hread : (readRaw s).1 = idealSample s.cfg.rawWidth T')
    (hle : T ≤ T') (hlt : T' - T < 2 ^ s.cfg.rawWidth.bits) : (now s).1 = BitVec.ofNat 64 T' := by
  have hlow : s.blk.lastRaw.toNat < 2 ^ s.cfg.rawWidth.bits := by
    rw [hlast, idealSample_toNat]
    exact Nat.mod_lt _ (Nat.two_pow_pos _)
  rw [now_value_eq_elapsed_add hlow, hlast, hread, helapsed, advance_idealSample _ hle, Nat.mod_eq_of_lt hlt,
    ← BitVec.ofNat_add, Nat.add_sub_cancel' hle]

/-- One step of such a machine answers the next tick count. -/
theorem Polling.answers_next {w : RawWidth} {T T' : Nat} {ticks : List Nat} {s : State}
    (h : Polling w T (T' :: ticks) s) (hle : T ≤ T') (hlt : T' - T < 2 ^ w.bits) :
    ∃ t, step s = .next t ∧ Polling w T' ticks t ∧
      t.io.responses = s.io.responses ++ [{ status := .ok, rdata := BitVec.ofNat 64 T', rbytes := [] }] := by
  obtain ⟨rfl, hreset, hmain, hint, hraws, hlast, helapsed⟩ := h
  let u := s.takeMain nowCommand (List.replicate ticks.length nowCommand)
  obtain ⟨hread, hrest⟩ := readRaw_of_listed (s := u) hraws
  replace hread := hread.trans (sample_idealSample _ _)
  have hvalue : (now u).1 = BitVec.ofNat 64 T' := now_value_of_cadence hlast helapsed hread hle hlt
  refine ⟨(now u).2.succeed (now u).1 [], step_now hreset hmain hint, ?_, ?_⟩
  · exact ⟨rfl, hreset, rfl, hint, hrest, hread, hvalue⟩
  · rw [succeed_io_responses, hvalue]
    rfl

/-- The run of such a machine under the cadence of R136 answers every tick count. -/
theorem Polling.run_answers {w : RawWidth} {T : Nat} {ticks : List Nat} {s : State} (h : Polling w T ticks s)
    (hcadence : (T :: ticks).IsChain fun T T' => T ≤ T' ∧ T' - T < 2 ^ w.bits) :
    ∃ t : State, core.run ticks.length s = .next t ∧
      t.io.responses = s.io.responses ++
        ticks.map fun T => { status := .ok, rdata := BitVec.ofNat 64 T, rbytes := [] } := by
  induction ticks generalizing T s with
  | nil => exact ⟨s, rfl, (List.append_nil _).symm⟩
  | cons T' ticks ih =>
    obtain ⟨⟨hle, hlt⟩, hcadence⟩ := List.isChain_cons_cons.1 hcadence
    obtain ⟨u, hstep, hu, hanswer⟩ := h.answers_next hle hlt
    obtain ⟨t, hrun, hanswers⟩ := ih hu hcadence
    refine ⟨t, (run_succ_of_step hstep _).trans hrun, ?_⟩
    rw [hanswers, hanswer, List.append_assoc]
    rfl

/-- Settles O17: after reset the time source holds what an ideal counter gives at tick count 0. -/
theorem nowIsExactUnderTheCadence : Obligations.NowIsExactUnderTheCadence := by
  intro c ticks hfirst hcadence
  refine Polling.run_answers (w := c.rawWidth) (T := 0) ⟨rfl, rfl, rfl, rfl, rfl, ?_, rfl⟩
    (List.isChain_cons.2 ⟨fun T hT => ⟨Nat.zero_le T, hfirst T hT⟩, hcadence⟩)
  cases c.rawWidth <;> rfl

end Sys2Proof.Machine
end

section
/-! REGISTER and SUBMIT by their rules (spec/41_registry.md R150, R160): the answer of each test and the one slot each
writes. -/

namespace Sys2Proof.Machine

/-- `NotRegistered` is the model's `find` without a result. -/
theorem notRegistered_iff {slots : List Slot} {id : VarId} : NotRegistered slots id ↔ find slots id = none := by
  simp only [NotRegistered, find_eq_none_iff, holds_eq_false_iff]

theorem FirstUnoccupied.firstFree_eq {slots : List Slot} {k : Nat} {sl : Slot} (h : FirstUnoccupied slots k sl) :
    firstFree slots = some k := firstFree_eq_some_iff.2 ⟨sl, h⟩

/-- A write of one slot is a `set` of the slot that stands there. -/
theorem modify_eq_set_of_getElem? {slots : List Slot} {k : Nat} {sl : Slot} (f : Slot → Slot)
    (h : slots[k]? = some sl) : slots.modify k f = slots.set k (f sl) := by
  simp only [List.modify_eq_set_getElem?, h, Option.map_eq_map, Option.map_some, Option.getD_some]

theorem register_of_registered {slots : List Slot} {id : VarId} (c : RateClass) (vt : VarType) (hid : id ≠ 0)
    (h : ¬NotRegistered slots id) : register slots id (some c) vt = .error .duplicateId := by
  have hfind : (find slots id).isSome := Option.isSome_iff_ne_none.2 (mt notRegistered_iff.2 h)
  simp only [register, if_neg hid, if_pos hfind]

/-- REGISTER of a fresh valid identifier turns on the free slot alone. -/
theorem register_of_fresh {slots : List Slot} {id : VarId} (c : RateClass) (vt : VarType) (hid : id ≠ 0)
    (h : NotRegistered slots id) : register slots id (some c) vt =
      ((firstFree slots).elim (.error .registryFull) fun k => .ok (slots.modify k (·.declare id vt c))) := by
  simp only [register, if_neg hid, notRegistered_iff.1 h, Option.isSome_none, Bool.false_eq_true, if_false]
  cases firstFree slots <;> rfl

/-- REGISTER presents status OK with the registry it wrote. -/
theorem exec_register_of_ok {s : State} {id : VarId} {rc : Option RateClass} {vt : VarType} {slots : List Slot}
    (h : register s.blk.slots id rc vt = .ok slots) :
    exec (.register id rc vt) s = .next ((s.setSlots slots).respond ⟨.ok, 0, []⟩) := by
  change execRegister id rc vt s = _
  rw [execRegister, h]
  rfl

/-- SUBMIT presents status OK with the registry it wrote. -/
theorem exec_submit_of_ok {s : State} {id : VarId} {n : BitVec 9} {slots : List Slot}
    (h : submit s.blk.slots id n.toNat s.io.port.wbuf = .ok slots) :
    exec (.submit id n) s = .next ((s.setSlots slots).respond ⟨.ok, 0, []⟩) := by
  change execSubmit id n s = _
  rw [execSubmit, h]
  rfl

theorem decode_of_opcode_register {cw : CommandWord} (h : opField cw = 0x02) :
    decode cw = .ok (.register (idField cw) (RateClass.ofCode (rclassField cw)) (VarType.ofCode (vtypeField cw))) := by
  rw [decode, h]
  rfl

theorem decode_of_opcode_submit {cw : CommandWord} (h : opField cw = 0x03) :
    decode cw = .ok (.submit (idField cw) (countField cw)) := by
  rw [decode, h]
  rfl

/-- Settles O20: one clause per test of R150, then the write of the free slot. -/
theorem registerFollowsItsRule : Obligations.RegisterFollowsItsRule := by
  refine ⟨fun _ => decode_of_opcode_register, fun _ _ _ => exec_register_of_error rfl,
    fun _ c vt => exec_register_of_error (register_zero _ c vt),
    fun _ _ c vt hid hreg => exec_register_of_error (register_of_registered c vt hid hreg), ?full, ?free⟩
  case full =>
    intro s id c vt hid hfresh hfull
    apply exec_register_of_error
    rw [register_of_fresh c vt hid hfresh, firstFree_eq_none_iff.2 hfull]
    rfl
  case free =>
    intro s id c vt k sl hid hfresh hfree
    apply exec_register_of_ok
    rw [register_of_fresh c vt hid hfresh, hfree.firstFree_eq, Option.elim_some, modify_eq_set_of_getElem? _ hfree.1]
    rfl

/-- SUBMIT's test of the byte count, at the slot that `find` gives. -/
theorem submit_of_firstHolder {slots : List Slot} {id : VarId} {k : Nat} {sl : Slot} (h : FirstHolder slots id k sl)
    (n : Nat) (w : List Byte) : submit slots id n w =
      if n ≠ sl.vtype.width then .error .typeMismatch else .ok (slots.set k (sl.store w)) := by
  obtain ⟨hfind, hslot⟩ := firstHolder_iff.1 h
  simp only [submit, hfind, hslot, modify_eq_set_of_getElem? _ h.1]

/-- Only a Bool is narrower than the four payload bytes. -/
theorem payload_write_width (p : Payload) (t : VarType) (w : List Byte) : p.write t.width w =
    if t = .bool then { p with b0 := wbufByte w 0 }
    else ⟨wbufByte w 0, wbufByte w 1, wbufByte w 2, wbufByte w 3⟩ := by
  cases t <;> rfl

/-- Settles O23: the two tests of R160, then the write of the holder by the width of its type. -/
theorem submitFollowsItsRule : Obligations.SubmitFollowsItsRule := by
  refine ⟨fun _ => decode_of_opcode_submit,
    fun _ _ _ hfresh => exec_submit_of_error (submit_of_find_none (notRegistered_iff.1 hfresh) _ _),
    fun s id n k sl hsl => ⟨fun hn => ?mismatch, fun hn => ?stored⟩⟩
  case mismatch => exact exec_submit_of_error ((submit_of_firstHolder hsl _ _).trans (if_pos hn))
  case stored =>
    apply exec_submit_of_ok
    rw [submit_of_firstHolder hsl, if_neg (not_not_intro hn), Slot.store, payload_write_width]

end Sys2Proof.Machine
end

section
/-! SUBMIT twice (spec/41_registry.md R162 (d), spec/42_rate_queue.md R180): the later value replaces the earlier. -/

namespace Sys2Proof.Machine

/-- A second write of as many bytes replaces the first: the bytes behind them are those from before both. -/
theorem payload_write_write (p : Payload) (n : Nat) (v w : List Byte) : (p.write n v).write n w = p.write n w := by
  have hlast (i : Nat) (a b x : Byte) : (if i < n then a else if i < n then b else x) = if i < n then a else x :=
    ite_congr rfl (fun _ => rfl) fun hi => if_neg hi
  simp only [Payload.write, hlast]

@[simp] theorem store_store (sl : Slot) (v w : List Byte) : (sl.store v).store w = sl.store w := by
  simp only [Slot.store, payload_write_write]

/-- SUBMIT's write leaves the identifier in the place where it was. -/
theorem firstHolder_set_store {slots : List Slot} {id : VarId} {k : Nat} {sl : Slot} (h : FirstHolder slots id k sl)
    (v : List Byte) : FirstHolder (slots.set k (sl.store v)) id k (sl.store v) := by
  obtain ⟨hfind, -⟩ := firstHolder_iff.1 h
  rw [firstHolder_iff, ← modify_eq_set_of_getElem? (·.store v) h.1]
  exact ⟨by rw [find_modify (fun sl id => store_holds sl v id), hfind], slotAt_modify_self h.1⟩

/-- Settles O24: the first SUBMIT leaves the holder's place and type, and the second writes the same bytes of it. -/
theorem lastSubmitWins : Obligations.LastSubmitWins := by
  intro s id n m w slots hfirst
  obtain ⟨k, hfind, -, rfl⟩ := submit_cases hfirst
  have hsl : FirstHolder s.blk.slots id k (slotAt s.blk.slots k) := firstHolder_iff.2 ⟨hfind, rfl⟩
  rw [modify_eq_set_of_getElem? _ hsl.1, submit_of_firstHolder (firstHolder_set_store hsl _),
    submit_of_firstHolder hsl, store_vtype, store_store, List.set_set]

end Sys2Proof.Machine
end

section
/-! PENDING by its rule (spec/42_rate_queue.md R182). -/

namespace Sys2Proof.Machine

/-- Under R23 (a) every occupied slot is the one that `find` gives for its identifier. -/
theorem find_of_uniqueIds {slots : List Slot} (h : UniqueIds slots) {k : Nat} {sl : Slot} (hk : slots[k]? = some sl)
    (hocc : sl.occupied = true) : find slots sl.id = some k := by
  refine find_eq_some_iff.2 ⟨sl, hk, holds_iff.2 ⟨hocc, rfl⟩, fun j hj x hx => holds_eq_false_iff.2 ?_⟩
  rintro ⟨hxocc, hxid⟩
  obtain ⟨hk', rfl⟩ := List.getElem?_eq_some_iff.1 hk
  obtain ⟨hj', rfl⟩ := List.getElem?_eq_some_iff.1 hx
  exact List.pairwise_iff_getElem.1 h j k hj' hk' hj hxocc hocc hxid

/-- The entry a slot has in the pending list of its class. -/
def Slot.entry (sl : Slot) : Entry := ⟨sl.id, sl.vtype, sl.payload.bytes sl.vtype.width⟩

/-- Under the registry invariants a pending list is the dirty slots of its class. -/
theorem mem_pendingList_iff_exists_slot {c : RateClass} {slots : List Slot} (h : RegistryInv slots) {e : Entry} :
    e ∈ pendingList c slots ↔
      ∃ sl ∈ slots, sl.occupied = true ∧ sl.rclass = c ∧ sl.dirty = true ∧ e = sl.entry := by
  obtain ⟨hunique, hzero, -, -⟩ := h
  rw [mem_pendingList, pendingEntry_eq_some_iff]
  constructor
  · rintro ⟨-, k, hfind, hclass, hdirty, he⟩
    obtain ⟨hk, hocc, hid, -⟩ := firstHolder_iff.2 ⟨hfind, rfl⟩
    refine ⟨_, List.mem_of_getElem? hk, hocc, hclass, hdirty, ?_⟩
    rw [Slot.entry, hid]
    exact he
  · rintro ⟨sl, hmem, hocc, hclass, hdirty, rfl⟩
    obtain ⟨k, hk⟩ := List.mem_iff_getElem?.1 hmem
    refine ⟨hzero sl hmem hocc, k, find_of_uniqueIds hunique hk hocc, ?_⟩
    rw [slotAt_of_getElem? hk]
    exact ⟨hclass, hdirty, rfl⟩

theorem decode_of_opcode_pending {cw : CommandWord} (h : opField cw = 0x04) :
    decode cw = .ok (.pending (RateClass.ofCode (rclassField cw))) := by
  rw [decode, h]
  rfl

/-- Settles O26: the list that PENDING answers is `pendingList`, ascending as `allIds` is. -/
theorem pendingFollowsItsRule : Obligations.PendingFollowsItsRule :=
  ⟨fun _ => decode_of_opcode_pending, fun _ => rfl, fun s c => ⟨pendingList c s.blk.slots, rfl,
    pendingList_ascends c s.blk.slots, fun hinv _ => mem_pendingList_iff_exists_slot hinv⟩⟩

end Sys2Proof.Machine
end

section
/-! The dirty flag: CLEAR by its rule (spec/42_rate_queue.md R190), and what every operation does to the flag of a slot
(R192). -/

namespace Sys2Proof.Machine

/-- An occupied slot is unmarked if its class is one of `classes`: what CLEAR does for one class, and a TICK for the
classes it sent. -/
def Slot.unmark (classes : RateClass → Bool) (sl : Slot) : Slot :=
  { sl with dirty := sl.dirty && !(sl.occupied && classes sl.rclass) }

theorem unmark_none (sl : Slot) : sl.unmark (fun _ => false) = sl := by
  simp [Slot.unmark]

theorem unmark_unmark (p q : RateClass → Bool) (sl : Slot) :
    (sl.unmark p).unmark q = sl.unmark fun c => p c || q c := by
  simp only [Slot.unmark, Bool.and_or_distrib_left, Bool.not_or, Bool.and_assoc]

theorem clearIf_eq_unmark (c : RateClass) (sl : Slot) : sl.clearIf c = sl.unmark fun c' => decide (c' = c) := by
  rw [Slot.clearIf]
  split
  next h => simp [Slot.unmark, h]
  next h =>
    have hclass : (sl.occupied && decide (sl.rclass = c)) = false := by simpa using h
    simp [Slot.unmark, hclass]

theorem clearSlots_eq_map (c : RateClass) (slots : List Slot) :
    clearSlots c slots = slots.map (Slot.unmark fun c' => decide (c' = c)) :=
  List.map_congr_left fun sl _ => clearIf_eq_unmark c sl

theorem exec_clear (c : RateClass) (s : State) :
    exec (.clear (some c)) s = .next ((s.setSlots (clearSlots c s.blk.slots)).respond ⟨.ok, 0, []⟩) := rfl

theorem decode_of_opcode_clear {cw : CommandWord} (h : opField cw = 0x05) :
    decode cw = .ok (.clear (RateClass.ofCode (rclassField cw))) := by
  rw [decode, h]
  rfl

/-- Settles O28: CLEAR's write, slot by slot, as `Slot.unmark` of its one class. -/
theorem clearFollowsItsRule : Obligations.ClearFollowsItsRule := by
  refine ⟨fun _ => decode_of_opcode_clear, fun _ => rfl, fun s c => ?_⟩
  rw [exec_clear, clearSlots_eq_map]
  rfl

/-- CLEAR with either class operand: the reserved code names no class. -/
theorem exec_clear_slots {s t : State} {rc : Option RateClass} (h : exec (.clear rc) s = .next t) :
    t.blk.slots = s.blk.slots.map (Slot.unmark fun c => decide (rc = some c)) := by
  cases rc with
  | none =>
    cases h
    simp [funext unmark_none]
  | some c =>
    rw [exec_clear] at h
    cases h
    simp [clearSlots_eq_map, eq_comm]

theorem tickClass_slots_eq_map (c : RateClass) (s : State) : (tickClass c s).2.blk.slots =
    s.blk.slots.map (Slot.unmark fun c' => decide (c' = c ∧ (tickClass c s).1 = .sent)) := by
  rw [tickClass_slots]
  split
  next h => simp [h, clearSlots_eq_map]
  next h => simp [h, funext unmark_none]

/-- A TICK unmarks the slots of the classes it sent, and writes nothing else of any slot. -/
theorem tickWalk_slots (s : State) : (tickWalk s).state.blk.slots =
    s.blk.slots.map (Slot.unmark fun c => decide ((tickWalk s).results.get c = .sent)) := by
  have hclass (c : RateClass) : decide ((tickWalk s).results.get c = .sent) =
      (decide (c = .veryFast ∧ (tickWalk s).results.veryFast = .sent) ||
        (decide (c = .fast ∧ (tickWalk s).results.fast = .sent) ||
          decide (c = .slow ∧ (tickWalk s).results.slow = .sent))) := by
    rw [Bool.eq_iff_iff, decide_eq_true_iff]
    cases c <;> simp [PerClass.get]
  rw [tickWalk_state, tickClass_slots_eq_map, tickClass_slots_eq_map, tickClass_slots_eq_map, List.map_map,
    List.map_map]
  refine List.map_congr_left fun sl _ => ?_
  rw [Function.comp, Function.comp, unmark_unmark, unmark_unmark, funext hclass]
  rfl

theorem exec_tick_slots {s t : State} (h : exec .tick s = .next t) :
    t.blk.slots = s.blk.slots.map (Slot.unmark fun c => decide ((tickWalk s).results.get c = .sent)) := by
  cases h
  exact tickWalk_slots s

/-- PENDING only answers, refused or not (spec/20_memory.md R69). -/
theorem exec_pending_eq_respond (rc : Option RateClass) (s : State) :
    ∃ r, exec (.pending rc) s = .next (s.respond r) := by
  cases rc with
  | none => exact ⟨_, rfl⟩
  | some c => exact ⟨_, rfl⟩

/-- ENCODE only answers, refused or not. -/
theorem exec_encode_eq_respond (rc : Option RateClass) (s : State) :
    ∃ r, exec (.encode rc) s = .next (s.respond r) := by
  change ∃ r, execEncode rc s = _
  unfold execEncode
  split
  · exact ⟨_, rfl⟩
  · split <;> exact ⟨_, rfl⟩

/-- DECODE only answers, refused or not. -/
theorem exec_decode_eq_respond (n : BitVec 9) (s : State) : ∃ r, exec (.decode n) s = .next (s.respond r) := by
  change ∃ r, execDecode n s = _
  unfold execDecode
  split
  · exact ⟨_, rfl⟩
  · split <;> exact ⟨_, rfl⟩

theorem slots_eq_of_respond {s t : State} {i : Instr} (hi : ∃ r, exec i s = .next (s.respond r))
    (h : exec i s = .next t) : t.blk.slots = s.blk.slots := by
  obtain ⟨r, hr⟩ := hi
  cases hr.symm.trans h
  rfl

/-- REGISTER writes an unoccupied slot only, and leaves it clean. -/
theorem register_dirty {slots slots' : List Slot} {id : VarId} {rc : Option RateClass} {vt : VarType} {k : Nat}
    {sl : Slot} (h : register slots id rc vt = .ok slots') (hk : slots[k]? = some sl) :
    ∃ sl', slots'[k]? = some sl' ∧ sl'.dirty = (sl.dirty && !(sl'.occupied && !sl.occupied)) := by
  obtain ⟨c, j, -, -, -, hfree, rfl⟩ := register_cases h
  by_cases hkj : k = j
  · subst hkj
    obtain ⟨x, hx, hocc, -⟩ := firstFree_eq_some_iff.1 hfree
    obtain rfl : x = sl := Option.some.inj (hx.symm.trans hk)
    refine ⟨x.declare id vt c, ?_, by simp [hocc]⟩
    rw [getElem?_modify_self, hk, Option.map_some]
  · refine ⟨sl, ?_, by simp⟩
    rw [getElem?_modify_of_ne _ _ hkj, hk]

/-- REGISTER's clause of R192, succeeding or refused. -/
theorem exec_register_dirty {s t : State} {id : VarId} {rc : Option RateClass} {vt : VarType} {k : Nat} {sl : Slot}
    (h : exec (.register id rc vt) s = .next t) (hk : s.blk.slots[k]? = some sl) :
    ∃ sl', t.blk.slots[k]? = some sl' ∧ dirtyAfter s k sl sl' (.register id rc vt) := by
  cases hreg : register s.blk.slots id rc vt with
  | error e =>
    rw [slots_eq_of_respond ⟨_, exec_register_of_error hreg⟩ h]
    exact ⟨sl, hk, by simp [dirtyAfter]⟩
  | ok slots =>
    cases (exec_register_of_ok hreg).symm.trans h
    exact register_dirty hreg hk

/-- SUBMIT writes no slot but the one that holds its identifier. -/
theorem submit_getElem?_of_not_holder {slots slots' : List Slot} {id : VarId} {n : Nat} {w : List Byte} {k : Nat}
    {sl : Slot} (h : submit slots id n w = .ok slots') (hk : slots[k]? = some sl)
    (hsl : ¬(FirstHolder slots id k sl ∧ n = sl.vtype.width)) : slots'[k]? = some sl := by
  obtain ⟨j, hfind, hn, rfl⟩ := submit_cases h
  have hkj : k ≠ j := by
    rintro rfl
    rw [slotAt_of_getElem? hk] at hn
    exact hsl ⟨firstHolder_iff.2 ⟨hfind, slotAt_of_getElem? hk⟩, hn⟩
  rw [getElem?_modify_of_ne _ _ hkj, hk]

/-- SUBMIT's clause of R192: the slot is marked if the SUBMIT is of it and succeeds. -/
theorem exec_submit_dirty {s t : State} {id : VarId} {n : BitVec 9} {k : Nat} {sl : Slot}
    (h : exec (.submit id n) s = .next t) (hk : s.blk.slots[k]? = some sl) :
    ∃ sl', t.blk.slots[k]? = some sl' ∧ dirtyAfter s k sl sl' (.submit id n) := by
  by_cases hsl : FirstHolder s.blk.slots id k sl ∧ n.toNat = sl.vtype.width
  · have hok := (submit_of_firstHolder hsl.1 n.toNat s.io.port.wbuf).trans (if_neg (not_not_intro hsl.2))
    cases (exec_submit_of_ok hok).symm.trans h
    refine ⟨sl.store s.io.port.wbuf, ?_, fun _ => rfl, fun hnot => absurd hsl hnot⟩
    exact List.getElem?_set_self (List.getElem?_eq_some_iff.1 hk).1
  · refine ⟨sl, ?_, fun hholds => absurd hholds hsl, fun _ => rfl⟩
    cases hsub : submit s.blk.slots id n.toNat s.io.port.wbuf with
    | error e => rw [slots_eq_of_respond ⟨_, exec_submit_of_error hsub⟩ h, hk]
    | ok slots =>
      cases (exec_submit_of_ok hsub).symm.trans h
      exact submit_getElem?_of_not_holder hsub hk hsl

/-- Settles O30: REGISTER and SUBMIT write at most one slot, CLEAR and TICK unmark by class, and the other operations
write no slot. -/
theorem dirtyFlagLife : Obligations.DirtyFlagLife := by
  intro s t i k sl h hk
  cases i with
  | now =>
    cases h
    exact ⟨sl, hk, rfl⟩
  | register id rc vt => exact exec_register_dirty h hk
  | submit id n => exact exec_submit_dirty h hk
  | pending rc => exact ⟨sl, by rw [slots_eq_of_respond (exec_pending_eq_respond rc s) h, hk], rfl⟩
  | clear rc =>
    refine ⟨sl.unmark fun c => decide (rc = some c), ?_, rfl⟩
    rw [exec_clear_slots h, List.getElem?_map, hk, Option.map_some]
  | encode rc => exact ⟨sl, by rw [slots_eq_of_respond (exec_encode_eq_respond rc s) h, hk], rfl⟩
  | decode n => exact ⟨sl, by rw [slots_eq_of_respond (exec_decode_eq_respond n s) h, hk], rfl⟩
  | tick =>
    refine ⟨sl.unmark fun c => decide ((tickWalk s).results.get c = .sent), ?_, rfl⟩
    rw [exec_tick_slots h, List.getElem?_map, hk, Option.map_some]

end Sys2Proof.Machine
end

section
/-! ENCODE by its rule (spec/43_packet_codec.md R205): the answer is the encoder's on the pending list. -/

namespace Sys2Proof.Machine

theorem decode_of_opcode_encode {cw : CommandWord} (h : opField cw = 0x06) :
    decode cw = .ok (.encode (RateClass.ofCode (rclassField cw))) := by
  rw [decode, h]
  rfl

theorem exec_encode_of_none {s : State} {c : RateClass}
    (h : encodeList s.cfg (pendingList c s.blk.slots) s.io.port.arg64 = none) :
    exec (.encode (some c)) s = .next (s.respond ⟨.frameTooLarge, 0, []⟩) := by
  change execEncode (some c) s = _
  simp only [execEncode, h]
  rfl

theorem exec_encode_of_some {s : State} {c : RateClass} {f : List Byte}
    (h : encodeList s.cfg (pendingList c s.blk.slots) s.io.port.arg64 = some f) :
    exec (.encode (some c)) s = .next (s.respond ⟨.ok, 0, f⟩) := by
  change execEncode (some c) s = _
  simp only [execEncode, h]
  rfl

/-- Settles O31: the encoder succeeds up to `L = 248`, with the bytes of `coveredBytes`, their checksum and END. -/
theorem encodeFollowsItsRule : Obligations.EncodeFollowsItsRule := by
  refine ⟨fun _ => decode_of_opcode_encode, fun _ => rfl, fun s c => ⟨fun hL => ?_, fun hL => ?_⟩⟩
  · exact exec_encode_of_none (encodeList_eq_none_iff.2 hL)
  · exact ⟨pendingRegion_length c s.blk.slots, exec_encode_of_some (encodeList_eq_some_iff.2 ⟨hL, rfl⟩)⟩

end Sys2Proof.Machine
end

section
/-! The tests of DECODE one by one, in the order of spec/43_packet_codec.md R221, and DECODE by its rule (R220). -/

namespace Sys2Proof.Machine

/-- `CutsInto` is the model's cut of a region. -/
theorem parsePairs_eq_some_iff_cutsInto {slots : List Slot} {region : List Byte} {ps : List Pair} :
    parsePairs slots region.length region = some ps ↔ CutsInto slots region ps := by
  rw [cutsInto_iff]
  refine ⟨parsePairs_sound, ?_⟩
  rintro ⟨rfl, hpairs⟩
  exact parsePairs_complete ps hpairs _ (Nat.le_refl _)

theorem parsePairs_eq_none_iff_not_cutsInto {slots : List Slot} {region : List Byte} :
    parsePairs slots region.length region = none ↔ ¬∃ ps, CutsInto slots region ps := by
  simp only [← parsePairs_eq_some_iff_cutsInto, Option.eq_none_iff_forall_ne_some, not_exists, ne_eq]

section
variable {cfg : Config} {slots : List Slot} {bytes : List Byte} {l : Nat}

theorem decodeFrame_of_length_eq_zero (h : bytes.length = 0) : decodeFrame cfg slots bytes = .error .framingError :=
  if_pos h

/-- An empty sequence fails with the same error, so the test needs no byte to be there. -/
theorem decodeFrame_of_startByte_ne (h : byteAt bytes 0 ≠ cfg.startByte) :
    decodeFrame cfg slots bytes = .error .framingError := by
  simp only [decodeFrame, if_pos h, ite_self]

/-- Fewer than two bytes are fewer than any LENGTH promises: steps 2 and 3 of R220 as one test. -/
theorem decodeFrame_of_length_lt (hpos : 1 ≤ bytes.length) (hstart : byteAt bytes 0 = cfg.startByte)
    (h : bytes.length < (byteAt bytes 1).toNat + 8) : decodeFrame cfg slots bytes = .error .truncatedFrame := by
  have hne : bytes.length ≠ 0 := by omega
  simp only [decodeFrame, if_neg hne, if_neg (not_not_intro hstart), frameOverhead_eq, if_pos h, ite_self]

section
variable (hstart : byteAt bytes 0 = cfg.startByte) (hl : (byteAt bytes 1).toNat = l) (hlen : l + 8 ≤ bytes.length)
include hstart hl hlen

/-- From START and as many bytes as LENGTH promises on, three tests are left: END, the checksum, the cut. -/
theorem decodeFrame_of_length_ge : decodeFrame cfg slots bytes =
    if byteAt bytes (7 + l) ≠ cfg.endByte then .error .framingError
    else if xorAll (bytes.take (6 + l)) ≠ byteAt bytes (6 + l) then .error .checksumError
    else (parsePairs slots ((bytes.drop 6).take l).length ((bytes.drop 6).take l)).elim (.error .framingError)
      fun ps => .ok ⟨fromLe32 ((bytes.drop 2).take 4), (bytes.drop 6).take l, ps⟩ := by
  have hne : bytes.length ≠ 0 := by omega
  have htwo : ¬bytes.length < 2 := by omega
  simp only [decodeFrame, if_neg hne, if_neg (not_not_intro hstart), if_neg htwo, hl, frameOverhead_eq,
    if_neg hlen.not_gt]
  cases parsePairs slots ((bytes.drop 6).take l).length ((bytes.drop 6).take l) <;> rfl

theorem decodeFrame_of_endByte_ne (hend : byteAt bytes (7 + l) ≠ cfg.endByte) :
    decodeFrame cfg slots bytes = .error .framingError := by
  rw [decodeFrame_of_length_ge hstart hl hlen, if_pos hend]

theorem decodeFrame_of_checksum_ne (hend : byteAt bytes (7 + l) = cfg.endByte)
    (hsum : xorAll (bytes.take (6 + l)) ≠ byteAt bytes (6 + l)) :
    decodeFrame cfg slots bytes = .error .checksumError := by
  rw [decodeFrame_of_length_ge hstart hl hlen, if_neg (not_not_intro hend), if_pos hsum]

theorem decodeFrame_of_not_cutsInto (hend : byteAt bytes (7 + l) = cfg.endByte)
    (hsum : xorAll (bytes.take (6 + l)) = byteAt bytes (6 + l))
    (hcut : ¬∃ ps, CutsInto slots ((bytes.drop 6).take l) ps) :
    decodeFrame cfg slots bytes = .error .framingError := by
  rw [decodeFrame_of_length_ge hstart hl hlen, if_neg (not_not_intro hend), if_neg (not_not_intro hsum),
    parsePairs_eq_none_iff_not_cutsInto.2 hcut, Option.elim_none]

theorem decodeFrame_of_cutsInto (hend : byteAt bytes (7 + l) = cfg.endByte)
    (hsum : xorAll (bytes.take (6 + l)) = byteAt bytes (6 + l)) {ps : List Pair}
    (hcut : CutsInto slots ((bytes.drop 6).take l) ps) :
    decodeFrame cfg slots bytes = .ok ⟨fromLe32 ((bytes.drop 2).take 4), (bytes.drop 6).take l, ps⟩ := by
  rw [decodeFrame_of_length_ge hstart hl hlen, if_neg (not_not_intro hend), if_neg (not_not_intro hsum),
    parsePairs_eq_some_iff_cutsInto.2 hcut, Option.elim_some]

end
end

theorem decode_of_opcode_decode {cw : CommandWord} (h : opField cw = 0x07) :
    decode cw = .ok (.decode (countField cw)) := by
  rw [decode, h]
  rfl

theorem exec_decode_of_count_gt {s : State} {n : BitVec 9} (hn : 256 < n.toNat) :
    exec (.decode n) s = .next (s.respond ⟨.illegalCommand, 0, []⟩) := by
  change execDecode n s = _
  rw [execDecode, if_pos hn]
  rfl

/-- DECODE answers the error of its tests and changes nothing. -/
theorem exec_decode_of_error {s : State} {n : BitVec 9} (hn : n.toNat ≤ 256) {e : Status}
    (h : decodeFrame s.cfg s.blk.slots (wbufPrefix s.io.port.wbuf n.toNat) = .error e) :
    exec (.decode n) s = .next (s.respond ⟨e, 0, []⟩) := by
  change execDecode n s = _
  rw [execDecode, if_neg hn.not_gt, h]
  rfl

theorem exec_decode_of_ok {s : State} {n : BitVec 9} (hn : n.toNat ≤ 256) {d : Decoded}
    (h : decodeFrame s.cfg s.blk.slots (wbufPrefix s.io.port.wbuf n.toNat) = .ok d) :
    exec (.decode n) s = .next (s.respond ⟨.ok, zext64 d.time, d.region⟩) := by
  change execDecode n s = _
  rw [execDecode, if_neg hn.not_gt, h]
  rfl

/-- Four bytes never fill more than 32 bits, so the widened time is the sum itself. -/
theorem zext64_fromLe32 (b : List Byte) : zext64 (fromLe32 b) = BitVec.ofNat 64 ((byteAt b 0).toNat +
    2 ^ 8 * (byteAt b 1).toNat + 2 ^ 16 * (byteAt b 2).toNat + 2 ^ 24 * (byteAt b 3).toNat) := by
  apply BitVec.eq_of_toNat_eq
  rw [zext64_toNat, fromLe32, BitVec.toNat_ofNat, BitVec.toNat_ofNat]
  omega

/-- Byte `i` of the TIMESTAMP field is at offset `2 + i` of the port. -/
theorem byteAt_wbufPrefix_timestamp (w : List Byte) {n i : Nat} (hi : i < 4) (hn : 6 ≤ n) :
    byteAt (((wbufPrefix w n).drop 2).take 4) i = wbufByte w (2 + i) := by
  rw [byteAt_take hi, byteAt_drop, byteAt_wbufPrefix w (by omega)]

/-- Settles O35: `decodeFrame` test by test; every byte that a test looks at is one of the `n` at the port. -/
theorem decodeFollowsItsRule : Obligations.DecodeFollowsItsRule := by
  refine ⟨fun _ => decode_of_opcode_decode, fun s n => ?_⟩
  intro b bytes l region answers
  have hbytes : bytes.length = n.toNat := wbufPrefix_length _ _
  have hb (i : Nat) (hi : i < n.toNat) : byteAt bytes i = b i := byteAt_wbufPrefix _ hi
  have hl (h2 : 2 ≤ n.toNat) : (byteAt bytes 1).toNat = l := congrArg BitVec.toNat (hb 1 h2)
  refine ⟨exec_decode_of_count_gt, fun h0 => ?empty, fun h1 hn hstart => ?start, fun h1 hstart => ?one,
    fun h2 hn hstart hshort => ?short, fun hlen hn hstart => ?whole⟩
  case empty => exact exec_decode_of_error (by omega) (decodeFrame_of_length_eq_zero (hbytes.trans h0))
  case start =>
    rw [← hb 0 (by omega)] at hstart
    exact exec_decode_of_error hn (decodeFrame_of_startByte_ne hstart)
  case one =>
    rw [← hb 0 (by omega)] at hstart
    have hshort : bytes.length < (byteAt bytes 1).toNat + 8 := by omega
    exact exec_decode_of_error (by omega) (decodeFrame_of_length_lt (hbytes.trans h1).ge hstart hshort)
  case short =>
    have hpos : 1 ≤ bytes.length := by omega
    rw [← hb 0 (by omega)] at hstart
    rw [← hbytes, ← hl h2] at hshort
    exact exec_decode_of_error hn (decodeFrame_of_length_lt hpos hstart hshort)
  case whole =>
    rw [← hb 0 (by omega)] at hstart
    replace hl := hl (by omega)
    rw [← hbytes] at hlen
    rw [← hb (7 + l) (by omega), ← hb (6 + l) (by omega)]
    refine ⟨fun hend => ?_, fun hend hsum => ?_, fun hend hsum => ⟨fun hcut => ?_, fun ⟨pairs, hcut⟩ => ?_⟩⟩
    · exact exec_decode_of_error hn (decodeFrame_of_endByte_ne hstart hl hlen hend)
    · exact exec_decode_of_error hn (decodeFrame_of_checksum_ne hstart hl hlen hend hsum)
    · exact exec_decode_of_error hn (decodeFrame_of_not_cutsInto hstart hl hlen hend hsum hcut)
    · have htime (i : Nat) (hi : i < 4) : byteAt ((bytes.drop 2).take 4) i = b (2 + i) :=
        byteAt_wbufPrefix_timestamp _ hi (by omega)
      rw [exec_decode_of_ok hn (decodeFrame_of_cutsInto hstart hl hlen hend hsum hcut), zext64_fromLe32,
        htime 0 (by omega), htime 1 (by omega), htime 2 (by omega), htime 3 (by omega)]

end Sys2Proof.Machine
end

section
/-! What one class of a TICK does, case by case (spec/44_scheduler.md R255): one equation per branch of the rule, and the
two calls of the environment by their answers. -/

namespace Sys2Proof.Machine

/-- The state after one poll that read `raw`, with the answers and the free-value index it leaves. -/
def State.polled (raw : Raw) (rest : List Raw) (n : Nat) (s : State) : State :=
  { s with
    blk := { s.blk with lastRaw := raw, accHigh := accAfter s.cfg.rawWidth s.blk.lastRaw s.blk.accHigh raw }
    io := { s.io with raws := rest, nextFree := n, calls := s.io.calls ++ [.readRaw raw] } }

/-- The state after one frame handed to the transport, with the answers and the free-value index that leaves. -/
def State.handedOver (f : List Byte) (ok : Bool) (rest : List Bool) (n : Nat) (s : State) : State :=
  { s with io := { s.io with txs := rest, nextFree := n, calls := s.io.calls ++ [.transmit f ok] } }

/-- One poll, by its answer. -/
theorem now_of_answered {s : State} {a : Raw} {rest : List Raw} {n : Nat}
    (h : Answered Config.freeRaw s.io.raws s.io.nextFree a rest n) :
    now s = (accAfter s.cfg.rawWidth s.blk.lastRaw s.blk.accHigh (s.cfg.rawWidth.sample a) +
      zext64 (s.cfg.rawWidth.sample a), s.polled (s.cfg.rawWidth.sample a) rest n) := by
  rw [now, readRaw_of_answered h]
  rfl

/-- One call of the transport, by its answer. -/
theorem transmit_of_answered {s : State} {ok : Bool} {rest : List Bool} {n : Nat} (f : List Byte)
    (h : Answered Config.freeTransmit s.io.txs s.io.nextFree ok rest n) :
    transmit f s = (ok, s.handedOver f ok rest n) := by
  rw [transmit, draw_of_answered h]
  rfl

theorem tickClass_of_notDue {c : RateClass} {s : State}
    (h : (now s).1 - s.blk.lastSent.get c < s.cfg.interval.get c) : tickClass c s = (.notDue, (now s).2) := if_pos h

theorem tickClass_of_due {c : RateClass} {s : State} (h : s.cfg.interval.get c ≤ (now s).1 - s.blk.lastSent.get c) :
    tickClass c s = serveDue c (now s).1 ((now s).2.setSched c .due) := if_neg (BitVec.not_lt.2 h)

section
variable {c : RateClass} {s : State} (hdue : s.cfg.interval.get c ≤ (now s).1 - s.blk.lastSent.get c)
include hdue

theorem tickClass_of_empty (hp : pendingList c s.blk.slots = []) :
    tickClass c s = advanceEmpty c ((now s).2.setSched c .due) :=
  (tickClass_of_due hdue).trans (if_pos (List.isEmpty_iff.2 hp))

theorem tickClass_of_tooLarge (hp : pendingList c s.blk.slots ≠ [])
    (hf : encodeList s.cfg (pendingList c s.blk.slots) (now s).1 = none) :
    tickClass c s = (.frameTooLarge, ((now s).2.setSched c .due).setSched c .idle) := by
  simp only [tickClass_of_due hdue, serveDue, setSched_blk_slots, now_blk_slots, setSched_cfg, now_cfg,
    List.isEmpty_iff, if_neg hp, hf]

theorem tickClass_of_frame {f : List Byte} (hp : pendingList c s.blk.slots ≠ [])
    (hf : encodeList s.cfg (pendingList c s.blk.slots) (now s).1 = some f) :
    tickClass c s = sendFrame c f ((now s).2.setSched c .due) := by
  simp only [tickClass_of_due hdue, serveDue, setSched_blk_slots, now_blk_slots, setSched_cfg, now_cfg,
    List.isEmpty_iff, if_neg hp, hf]

end

theorem sendFrame_of_failed {c : RateClass} {f : List Byte} {s u : State} (h : transmit f s = (false, u)) :
    sendFrame c f s = (.transmitFailed, u.setSched c .idle) := by
  rw [sendFrame, h]
  rfl

theorem sendFrame_of_success {c : RateClass} {f : List Byte} {s u : State} (h : transmit f s = (true, u)) :
    sendFrame c f s = finishSent c u := by
  rw [sendFrame, h]
  rfl

theorem decode_of_opcode_tick {cw : CommandWord} (h : opField cw = 0x08) : decode cw = .ok .tick := by
  rw [decode, h]
  rfl

theorem exec_tick (s : State) : exec .tick s = .next ((tickWalk s).state.respond
    { status := tickStatus (tickWalk s).results, rdata := tickData (tickWalk s).results, rbytes := [] }) := rfl

theorem tickStatus_eq (r : PerClass TickResult) :
    tickStatus r = if .frameTooLarge ∈ [r.veryFast, r.fast, r.slow] then .frameTooLarge else .ok := by
  simp only [tickStatus, List.mem_cons, List.not_mem_nil, or_false, eq_comm]

/-- Settles O43: the equation of each branch, with the environment's answers put in for the calls it makes. -/
theorem tickFollowsItsRule : Obligations.TickFollowsItsRule := by
  refine ⟨fun _ => decode_of_opcode_tick, fun s => ?response, fun c s a rest n h => ?cases⟩
  case response =>
    rw [exec_tick, tickStatus_eq]
    rfl
  case cases =>
    intro raw acc t elapsed p
    have hnow : now s = (t, s.polled raw rest n) := now_of_answered h
    have hdue (hle : s.cfg.interval.get c ≤ elapsed) : s.cfg.interval.get c ≤ (now s).1 - s.blk.lastSent.get c := by
      rwa [hnow]
    have htime {r : Option (List Byte)} (hf : encodeList s.cfg p t = r) : encodeList s.cfg p (now s).1 = r := by
      rwa [hnow]
    refine ⟨fun hlt => ?notDue, fun hle hp a2 rest2 n2 h2 => ?empty, fun hle hp hf => ?tooLarge,
      fun hle hp f trest n2 hf htx => ?failed, fun hle hp f trest n2 a2 rest2 n3 hf htx h2 => ?sent⟩
    case notDue => rw [tickClass_of_notDue (by rwa [hnow]), hnow, State.polled]
    case empty =>
      rw [tickClass_of_empty (hdue hle) hp, advanceEmpty, hnow, now_of_answered h2]
      simp only [State.polled, State.setSched, State.setLastSent, PerClass.set_set, List.append_assoc]
      rfl
    case tooLarge =>
      rw [tickClass_of_tooLarge (hdue hle) hp (htime hf), hnow]
      simp only [State.polled, State.setSched, PerClass.set_set]
      rfl
    case failed =>
      rw [tickClass_of_frame (hdue hle) hp (htime hf), hnow, sendFrame_of_failed (transmit_of_answered f htx)]
      simp only [State.polled, State.handedOver, State.setSched, PerClass.set_set, List.append_assoc]
      rfl
    case sent =>
      rw [tickClass_of_frame (hdue hle) hp (htime hf), hnow, sendFrame_of_success (transmit_of_answered f htx),
        finishSent, now_of_answered h2]
      simp only [State.polled, State.handedOver, clearClass, State.setSlots, State.setSched, State.setLastSent,
        PerClass.set_set, List.append_assoc]
      rfl

end Sys2Proof.Machine
end

section
/-! What a whole TICK leaves: every class Idle (spec/44_scheduler.md R266), and all of the state and the interface that
R255 does not write. -/

namespace Sys2Proof.Machine

/-- What holds before a TICK and is kept by the evaluation of each class holds after the walk. -/
theorem tickWalk_keeps {P : State → Prop} (hkeep : ∀ c s, P s → P (tickClass c s).2) {s : State} (hs : P s) :
    P (tickWalk s).state := hkeep _ _ (hkeep _ _ (hkeep _ _ hs))

/-- Settles O45: setting one class to Idle keeps every class Idle. -/
theorem tickLeavesEveryClassIdle : Obligations.TickLeavesEveryClassIdle := by
  intro s hs
  refine ⟨_, exec_tick s, ?_⟩
  rw [respond_blk]
  refine tickWalk_keeps (P := fun u => AllIdle u.blk) (fun c u hu => ?_) hs
  obtain h | h := tickClass_sched c u
  · exact h.trans hu
  · rw [AllIdle, h, hu]
    cases c <;> rfl

/-- Between the interfaces `i` and `j` the block has only called outward: of the listed answers a front part is used up,
and nothing else but the record of the calls has changed. -/
structure OnlyCalledOut (i j : Io) : Prop where
  resetReq : j.resetReq = i.resetReq
  mainQ : j.mainQ = i.mainQ
  intQ : j.intQ = i.intQ
  picks : j.picks = i.picks
  port : j.port = i.port
  responses : j.responses = i.responses
  raws : j.raws <:+ i.raws
  txs : j.txs <:+ i.txs
  nextFree : i.nextFree ≤ j.nextFree

theorem OnlyCalledOut.refl (i : Io) : OnlyCalledOut i i :=
  ⟨rfl, rfl, rfl, rfl, rfl, rfl, List.suffix_rfl, List.suffix_rfl, Nat.le_refl _⟩

theorem OnlyCalledOut.trans {i j k : Io} (h : OnlyCalledOut i j) (h' : OnlyCalledOut j k) : OnlyCalledOut i k :=
  ⟨h'.resetReq.trans h.resetReq, h'.mainQ.trans h.mainQ, h'.intQ.trans h.intQ, h'.picks.trans h.picks,
    h'.port.trans h.port, h'.responses.trans h.responses, h'.raws.trans h.raws, h'.txs.trans h.txs,
    h.nextFree.trans h'.nextFree⟩

theorem readRaw_onlyCalledOut (s : State) : OnlyCalledOut s.io (readRaw s).2.io :=
  ⟨rfl, rfl, rfl, rfl, rfl, rfl, readRaw_raws_suffix s, List.suffix_rfl, readRaw_nextFree_ge s⟩

theorem transmit_onlyCalledOut (f : List Byte) (s : State) : OnlyCalledOut s.io (transmit f s).2.io :=
  ⟨rfl, rfl, rfl, rfl, rfl, rfl, List.suffix_rfl, transmit_txs_suffix f s, transmit_nextFree_ge f s⟩

@[simp] theorem advanceEmpty_io (c : RateClass) (s : State) : (advanceEmpty c s).2.io = (readRaw s).2.io := rfl

@[simp] theorem finishSent_io (c : RateClass) (s : State) : (finishSent c s).2.io = (readRaw s).2.io := rfl

theorem tickClass_onlyCalledOut (c : RateClass) (s : State) : OnlyCalledOut s.io (tickClass c s).2.io := by
  have hpoll : OnlyCalledOut s.io ((now s).2.setSched c .due).io := readRaw_onlyCalledOut s
  obtain h | ⟨-, h⟩ | ⟨-, -, h⟩ | ⟨f, -, -, ⟨-, h⟩ | ⟨-, h⟩⟩ := tickClass_cases c s <;> rw [h]
  · exact hpoll
  · exact hpoll.trans (readRaw_onlyCalledOut _)
  · exact hpoll
  · exact hpoll.trans (transmit_onlyCalledOut f _)
  · exact (hpoll.trans (transmit_onlyCalledOut f _)).trans (readRaw_onlyCalledOut _)

theorem unmark_withoutDirty (classes : RateClass → Bool) (sl : Slot) :
    (sl.unmark classes).withoutDirty = sl.withoutDirty := rfl

/-- Settles O46: each class only calls outward, and a TICK only unmarks slots. -/
theorem tickFrame : Obligations.TickFrame := by
  intro s
  have hio : OnlyCalledOut s.io (tickWalk s).state.io :=
    tickWalk_keeps (P := fun u => OnlyCalledOut s.io u.io) (fun c u hu => hu.trans (tickClass_onlyCalledOut c u))
      (.refl s.io)
  obtain ⟨hreset, hmain, hint, hpicks, hport, hresponses, hraws, htxs, hfree⟩ := hio
  have hanswer (r : Response) : ((tickWalk s).state.respond r).io.responses = s.io.responses ++ [r] := by
    rw [respond_io_responses, hresponses]
  refine ⟨_, _, exec_tick s, hanswer _, ?_⟩
  simp only [respond_cfg, respond_blk, respond_io_resetReq, respond_io_mainQ, respond_io_intQ, respond_io_picks,
    respond_io_port, respond_io_raws, respond_io_txs, respond_io_nextFree]
  refine ⟨tickWalk_cfg s, ?_, hreset, hmain, hint, hpicks, hport, hraws, htxs, hfree⟩
  rw [tickWalk_slots, List.map_map]
  exact List.map_congr_left fun sl _ => unmark_withoutDirty _ sl

end Sys2Proof.Machine
end

section
/-! The outward calls of a TICK, counted by its results (spec/44_scheduler.md R260), and those of a class that ends in
Sent (R259). -/

namespace Sys2Proof.Machine

/-- The results of a class that polled a second time (R256). -/
def TickResult.pollsTwice (r : TickResult) : Bool := decide (r = .emptyAdvanced ∨ r = .sent)

/-- The results of a class that handed a frame to the transport (R262). -/
def TickResult.handsOver (r : TickResult) : Bool := decide (r = .sent ∨ r = .transmitFailed)

/-- The outward calls `cs` are as many as the results `rs` of the evaluated classes say. -/
structure CallsFit (rs : List TickResult) (cs : List Call) : Prop where
  reads : cs.countP Call.isRead = rs.length + rs.countP TickResult.pollsTwice
  transmits : cs.countP (fun c => !c.isRead) = rs.countP TickResult.handsOver

theorem CallsFit.append {rs rs' : List TickResult} {cs cs' : List Call} (h : CallsFit rs cs) (h' : CallsFit rs' cs') :
    CallsFit (rs ++ rs') (cs ++ cs') := by
  constructor
  · rw [List.countP_append, List.countP_append, List.length_append, h.reads, h'.reads]
    omega
  · rw [List.countP_append, List.countP_append, h.transmits, h'.transmits]

/-- The calls of a class that ends in Sent: poll, frame, poll. -/
theorem finishSent_transmit_calls (c : RateClass) (f : List Byte) (s : State) :
    let u := transmit f ((now s).2.setSched c .due)
    (finishSent c u.2).2.io.calls =
      s.io.calls ++ [.readRaw (readRaw s).1, .transmit f u.1, .readRaw (finishSent c u.2).2.blk.lastRaw] := by
  intro u
  rw [finishSent_io, readRaw_io_calls, transmit_io_calls, setSched_io, now_io, readRaw_io_calls, List.append_assoc,
    List.append_assoc]
  rfl

/-- The calls of one class fit its result. -/
theorem tickClass_calls (c : RateClass) (s : State) :
    ∃ cs, (tickClass c s).2.io.calls = s.io.calls ++ cs ∧ CallsFit [(tickClass c s).1] cs := by
  obtain h | ⟨-, h⟩ | ⟨-, -, h⟩ | ⟨f, -, -, ⟨-, h⟩ | ⟨-, h⟩⟩ := tickClass_cases c s <;> rw [h]
  · exact ⟨[.readRaw _], rfl, rfl, rfl⟩
  · exact ⟨[.readRaw _, .readRaw _], List.append_assoc .., rfl, rfl⟩
  · exact ⟨[.readRaw _], rfl, rfl, rfl⟩
  · exact ⟨[.readRaw _, .transmit f _], List.append_assoc .., rfl, rfl⟩
  · exact ⟨_, finishSent_transmit_calls c f s, rfl, rfl⟩

/-- The calls of the walk fit the three results. -/
theorem tickWalk_calls (s : State) : ∃ cs, (tickWalk s).state.io.calls = s.io.calls ++ cs ∧
    CallsFit [(tickWalk s).results.veryFast, (tickWalk s).results.fast, (tickWalk s).results.slow] cs := by
  obtain ⟨csV, hV, fitV⟩ := tickClass_calls .veryFast s
  obtain ⟨csF, hF, fitF⟩ := tickClass_calls .fast (tickClass .veryFast s).2
  obtain ⟨csS, hS, fitS⟩ := tickClass_calls .slow (tickClass .fast (tickClass .veryFast s).2).2
  refine ⟨csV ++ (csF ++ csS), ?_, fitV.append (fitF.append fitS)⟩
  rw [tickWalk_state, hS, hF, hV, List.append_assoc, List.append_assoc]

/-- Settles O44: the calls fit the three results, and a count over three results is at most 3. -/
theorem tickCallsAreCounted : Obligations.TickCallsAreCounted := by
  intro s
  obtain ⟨cs, hcs, hreads, htransmits⟩ := tickWalk_calls s
  refine ⟨_, cs, exec_tick s, (respond_io_calls _ _).trans hcs, hreads, htransmits, ?_, ?_, ?_⟩
  · exact (Nat.le_add_right 3 _).trans_eq hreads.symm
  · exact hreads.trans_le (Nat.add_le_add_left List.countP_le_length 3)
  · exact htransmits.trans_le List.countP_le_length

/-- Settles O48: only the last case of a class ends in Sent; CLEAR then empties its list and no other. -/
theorem sentClassIsClearedAfterConfirm : Obligations.SentClassIsClearedAfterConfirm := by
  intro c s t hsent
  obtain h | ⟨-, h⟩ | ⟨-, -, h⟩ | ⟨f, hp, hf, ⟨-, h⟩ | ⟨hok, h⟩⟩ := tickClass_cases c s <;> cases h.symm.trans hsent
  have hcalls := finishSent_transmit_calls c f s
  simp only [hok] at hcalls
  exact ⟨f, _, _, hcalls, hp, hf, pendingList_clearSlots_same c _, fun c' hne => pendingList_clearSlots_other hne _,
    PerClass.get_set_same .., rfl⟩

end Sys2Proof.Machine
end

section
/-! The rate classes apart (spec/44_scheduler.md R261, R263): a TICK evaluates each class on a state that agrees with the
one before on everything that decides about the class. -/

namespace Sys2Proof.Machine

@[simp] theorem unmark_holds (classes : RateClass → Bool) (sl : Slot) (id : VarId) :
    (sl.unmark classes).holds id = sl.holds id := rfl

theorem unmark_of_class_false {classes : RateClass → Bool} {sl : Slot} (h : classes sl.rclass = false) :
    sl.unmark classes = sl := by
  simp only [Slot.unmark, h, Bool.and_false, Bool.not_false, Bool.and_true]

theorem slotAt_map_unmark (classes : RateClass → Bool) (slots : List Slot) (k : Nat) :
    slotAt (slots.map (Slot.unmark classes)) k = (slotAt slots k).unmark classes := by
  simp only [slotAt, List.getD, List.getElem?_map]
  cases slots[k]? <;> rfl

/-- Unmarking other classes leaves the pending list of a class alone. -/
theorem pendingList_map_unmark {classes : RateClass → Bool} {c : RateClass} (h : classes c = false)
    (slots : List Slot) : pendingList c (slots.map (Slot.unmark classes)) = pendingList c slots := by
  refine pendingList_congr fun id _ => ?_
  unfold pendingEntry
  rw [find_map (unmark_holds classes)]
  split
  · rfl
  · next k hk =>
    rw [slotAt_map_unmark]
    by_cases hc : (slotAt slots k).rclass = c
    · rw [unmark_of_class_false (hc ▸ h)]
    · rw [if_neg fun hd => hc hd.1, if_neg fun hd => hc hd.1]

/-- What decides the evaluation of class `c` is the same in `s` and `t`, but for the time. -/
structure SameFor (c : RateClass) (s t : State) : Prop where
  cfg : t.cfg = s.cfg
  pending : pendingList c t.blk.slots = pendingList c s.blk.slots
  lastSent : t.blk.lastSent.get c = s.blk.lastSent.get c
  sched : t.blk.sched.get c = s.blk.sched.get c

theorem SameFor.refl (c : RateClass) (s : State) : SameFor c s s := ⟨rfl, rfl, rfl, rfl⟩

theorem SameFor.trans {c : RateClass} {s t u : State} (h : SameFor c s t) (h' : SameFor c t u) : SameFor c s u :=
  ⟨h'.cfg.trans h.cfg, h'.pending.trans h.pending, h'.lastSent.trans h.lastSent, h'.sched.trans h.sched⟩

/-- The evaluation of a class is nothing to another one. -/
theorem tickClass_sameFor {c c' : RateClass} (hne : c' ≠ c) (s : State) : SameFor c' s (tickClass c s).2 where
  cfg := tickClass_cfg c s
  pending := by
    rw [tickClass_slots_eq_map]
    exact pendingList_map_unmark (decide_eq_false fun h => hne h.1) _
  lastSent := tickClass_lastSent_other hne s
  sched := by
    obtain h | h := tickClass_sched c s <;> rw [h]
    exact PerClass.get_set_other _ _ hne

/-- Settles O49: `SameFor` written out. -/
theorem classesAreIndependent : Obligations.ClassesAreIndependent := by
  intro c c' s hne
  obtain ⟨hcfg, hpending, hlastSent, hsched⟩ := tickClass_sameFor hne s
  exact ⟨hcfg, hpending, hlastSent, hsched⟩

/-- The walk evaluates each class once, on a state that agrees with the first one for the class, and what it does after
that is nothing to the class. -/
theorem tickWalk_evaluates (c : RateClass) (s : State) : ∃ u, SameFor c s u ∧
    (tickWalk s).results.get c = (tickClass c u).1 ∧ SameFor c (tickClass c u).2 (tickWalk s).state := by
  have hvf : RateClass.veryFast ≠ .fast := by decide
  have hvs : RateClass.veryFast ≠ .slow := by decide
  have hfs : RateClass.fast ≠ .slow := by decide
  cases c with
  | veryFast => exact ⟨s, .refl _ _, rfl, (tickClass_sameFor hvf _).trans (tickClass_sameFor hvs _)⟩
  | fast => exact ⟨_, tickClass_sameFor hvf.symm s, rfl, tickClass_sameFor hfs _⟩
  | slow => exact ⟨_, (tickClass_sameFor hvs.symm s).trans (tickClass_sameFor hfs.symm _), rfl, .refl _ _⟩

theorem TickResult.Unsent.ne_sent {r : TickResult} (h : r.Unsent) : r ≠ .sent := by
  rintro rfl
  exact absurd h (by unfold TickResult.Unsent; decide)

theorem TickResult.Unsent.ne_emptyAdvanced {r : TickResult} (h : r.Unsent) : r ≠ .emptyAdvanced := by
  rintro rfl
  exact absurd h (by unfold TickResult.Unsent; decide)

/-- An unsent class keeps its baseline through the walk. -/
theorem tickWalk_lastSent_of_unsent {c : RateClass} {s : State} (h : ((tickWalk s).results.get c).Unsent) :
    (tickWalk s).state.blk.lastSent.get c = s.blk.lastSent.get c := by
  obtain ⟨u, hbefore, hresult, hafter⟩ := tickWalk_evaluates c s
  rw [hresult] at h
  rw [hafter.lastSent, tickClass_lastSent_kept h.ne_sent h.ne_emptyAdvanced, hbefore.lastSent]

/-- An unsent class keeps its pending list through the walk. -/
theorem tickWalk_pendingList_of_unsent {c : RateClass} {s : State} (h : ((tickWalk s).results.get c).Unsent) :
    pendingList c (tickWalk s).state.blk.slots = pendingList c s.blk.slots := by
  rw [tickWalk_slots]
  exact pendingList_map_unmark (decide_eq_false h.ne_sent) _

/-- An unsent class keeps its slots through the walk. -/
theorem tickWalk_getElem?_of_unsent {s : State} {k : Nat} {sl : Slot} (hk : s.blk.slots[k]? = some sl)
    (h : ((tickWalk s).results.get sl.rclass).Unsent) : (tickWalk s).state.blk.slots[k]? = some sl := by
  rw [tickWalk_slots, List.getElem?_map, hk, Option.map_some, unmark_of_class_false (decide_eq_false h.ne_sent)]

/-- Settles O47: baseline, pending list and slots of an unsent class, each kept by the walk. -/
theorem unsentClassKeepsItsValues : Obligations.UnsentClassKeepsItsValues := by
  intro s
  refine ⟨_, exec_tick s, fun c h => ?_⟩
  rw [respond_blk]
  refine ⟨tickWalk_lastSent_of_unsent h, tickWalk_pendingList_of_unsent h, fun k sl hk hclass => ?_⟩
  subst hclass
  exact tickWalk_getElem?_of_unsent hk h

end Sys2Proof.Machine
end

section
/-! An oversized class (spec/70_reset_and_hazards.md R344): which operations can shorten the pairs of a class, and what a
TICK does with a class whose pairs fit no frame. -/

namespace Sys2Proof.Machine

theorem regionLength_cons (e : Entry) (p : List Entry) : regionLength (e :: p) = 1 + e.vtype.width + regionLength p := rfl

/-- `L` does not fall where every entry is kept with its type. -/
theorem regionLength_filterMap_le {f g : VarId → Option Entry} {ids : List VarId}
    (h : ∀ id ∈ ids, ∀ e, f id = some e → ∃ e', g id = some e' ∧ e'.vtype = e.vtype) :
    regionLength (ids.filterMap f) ≤ regionLength (ids.filterMap g) := by
  induction ids with
  | nil => exact Nat.le_refl _
  | cons id ids ih =>
    have hrest := ih fun x hx => h x (List.mem_cons_of_mem _ hx)
    rw [List.filterMap_cons, List.filterMap_cons]
    cases hf : f id with
    | some e =>
      obtain ⟨e', hg, htype⟩ := h id List.mem_cons_self e hf
      simp only [hg, regionLength_cons, htype]
      omega
    | none =>
      cases g id with
      | none => exact hrest
      | some e' =>
        rw [regionLength_cons]
        exact hrest.trans (Nat.le_add_left _ _)

/-- SUBMIT shortens no pending list: it replaces the entry of its identifier, or adds it. -/
theorem regionLength_submit_le (c : RateClass) {slots slots' : List Slot} {id : VarId} {n : Nat} {w : List Byte}
    (h : submit slots id n w = .ok slots') :
    regionLength (pendingList c slots) ≤ regionLength (pendingList c slots') := by
  obtain ⟨k, hfind, -, rfl⟩ := submit_cases h
  refine regionLength_filterMap_le fun id' _ e he => ?_
  by_cases hid : id' = id
  · subst hid
    obtain ⟨j, hj, rfl, -, rfl⟩ := pendingEntry_eq_some_iff.1 he
    obtain rfl : k = j := Option.some.inj (hfind.symm.trans hj)
    exact ⟨_, pendingEntry_submit_self hfind, rfl⟩
  · exact ⟨e, (pendingEntry_submit_other c hfind hid).trans he, rfl⟩

/-- REGISTER changes no pending list. -/
theorem pendingList_of_register (c : RateClass) {slots slots' : List Slot} {id : VarId} {rc : Option RateClass}
    {vt : VarType} (h : register slots id rc vt = .ok slots') : pendingList c slots' = pendingList c slots := by
  obtain ⟨c', k, -, -, hfind, hfree, rfl⟩ := register_cases h
  exact pendingList_congr fun id' _ => pendingEntry_register c hfind hfree id'

/-- The pairs of class `c` are no shorter in `t` than in `s`, and its baseline is the same. -/
structure NoShorter (c : RateClass) (s t : State) : Prop where
  length : regionLength (pendingList c s.blk.slots) ≤ regionLength (pendingList c t.blk.slots)
  lastSent : t.blk.lastSent.get c = s.blk.lastSent.get c

theorem NoShorter.of_respond {c : RateClass} {s t : State} {i : Instr} (hi : ∃ r, exec i s = .next (s.respond r))
    (h : exec i s = .next t) : NoShorter c s t := by
  obtain ⟨r, hr⟩ := hi
  cases hr.symm.trans h
  exact ⟨Nat.le_refl _, rfl⟩

theorem exec_register_noShorter (c : RateClass) {s t : State} {id : VarId} {rc : Option RateClass} {vt : VarType}
    (h : exec (.register id rc vt) s = .next t) : NoShorter c s t := by
  cases hreg : register s.blk.slots id rc vt with
  | error e => exact .of_respond ⟨_, exec_register_of_error hreg⟩ h
  | ok slots =>
    cases (exec_register_of_ok hreg).symm.trans h
    exact ⟨(congrArg regionLength (pendingList_of_register c hreg)).ge, rfl⟩

theorem exec_submit_noShorter (c : RateClass) {s t : State} {id : VarId} {n : BitVec 9}
    (h : exec (.submit id n) s = .next t) : NoShorter c s t := by
  cases hsub : submit s.blk.slots id n.toNat s.io.port.wbuf with
  | error e => exact .of_respond ⟨_, exec_submit_of_error hsub⟩ h
  | ok slots =>
    cases (exec_submit_of_ok hsub).symm.trans h
    exact ⟨regionLength_submit_le c hsub, rfl⟩

theorem exec_clear_noShorter {c : RateClass} {s t : State} {rc : Option RateClass} (hne : rc ≠ some c)
    (h : exec (.clear rc) s = .next t) : NoShorter c s t := by
  refine ⟨?_, ?_⟩
  · rw [exec_clear_slots h, pendingList_map_unmark (decide_eq_false hne)]
  · cases rc <;> cases h <;> rfl

/-- A class whose pairs exceed 248 bytes is not due or too large: it is not empty, and there is no frame of it. -/
theorem tickWalk_result_of_oversized {c : RateClass} {s : State} (h : 249 ≤ regionLength (pendingList c s.blk.slots)) :
    (tickWalk s).results.get c = .notDue ∨ (tickWalk s).results.get c = .frameTooLarge := by
  obtain ⟨u, hbefore, hresult, -⟩ := tickWalk_evaluates c s
  rw [← hbefore.pending] at h
  rw [hresult]
  obtain hu | ⟨hp, -⟩ | ⟨-, -, hu⟩ | ⟨f, -, hf, -⟩ := tickClass_cases c u
  · exact .inl (congrArg Prod.fst hu)
  · rw [hp] at h
    exact absurd h (by decide)
  · exact .inr (congrArg Prod.fst hu)
  · exact absurd (encodeList_eq_some_iff.1 hf).1 (by omega)

theorem exec_tick_noShorter {c : RateClass} {s t : State} (hunsent : ((tickWalk s).results.get c).Unsent)
    (h : exec .tick s = .next t) : NoShorter c s t := by
  cases (exec_tick s).symm.trans h
  constructor <;> rw [respond_blk]
  · rw [tickWalk_pendingList_of_unsent hunsent]
  · exact tickWalk_lastSent_of_unsent hunsent

/-- Settles O50: no operation but its CLEAR shortens the pairs of a class that a TICK cannot send. -/
theorem oversizedClassStaysUnsent : Obligations.OversizedClassStaysUnsent := by
  intro c i s t hover hclear h
  have hresult := tickWalk_result_of_oversized hover
  have hkept : NoShorter c s t := by
    cases i with
    | now =>
      cases h
      exact ⟨Nat.le_refl _, rfl⟩
    | register id rc vt => exact exec_register_noShorter c h
    | submit id n => exact exec_submit_noShorter c h
    | pending rc => exact .of_respond (exec_pending_eq_respond rc s) h
    | clear rc => exact exec_clear_noShorter (fun hrc => hclear (congrArg _ hrc)) h
    | encode rc => exact .of_respond (exec_encode_eq_respond rc s) h
    | decode n => exact .of_respond (exec_decode_eq_respond n s) h
    | tick => exact exec_tick_noShorter (hresult.imp_right .inr) h
  exact ⟨hover.trans hkept.length, hkept.lastSent, fun _ => hresult⟩

end Sys2Proof.Machine
end

section
/-! The command word field by field (spec/30_encoding.md R101, R102): what the encoder puts into each field, what the
decoder takes from it, and which bits it ignores (R103). -/

namespace Sys2Proof

@[simp] theorem classCode_ofCode (c : BitVec 2) : classCode (RateClass.ofCode c) = c := by
  revert c; decide

@[simp] theorem ofCode_classCode (rc : Option RateClass) : RateClass.ofCode (classCode rc) = rc := by
  cases rc with
  | none => rfl
  | some c => cases c <;> rfl

@[simp] theorem VarType.code_ofCode (c : BitVec 2) : (VarType.ofCode c).code = c := by
  revert c; decide

@[simp] theorem VarType.ofCode_code (t : VarType) : VarType.ofCode t.code = t := by
  cases t <;> rfl

/-- `cw[11:9]`, which no operation uses (R101). -/
def ignoredField (cw : CommandWord) : BitVec 3 := cw.extractLsb' 9 3

section
variable (op id : BitVec 8) (rc vt : BitVec 2) (n : BitVec 9)

@[simp] theorem idField_packWord : idField (packWord op id rc vt n) = id := by
  rw [idField, packWord, BitVec.extractLsb'_append_eq_of_le (by decide), BitVec.extractLsb'_append_eq_of_le (by decide),
    BitVec.extractLsb'_append_eq_of_le (by decide), BitVec.extractLsb'_append_eq_of_le (by decide)]
  exact BitVec.extractLsb'_append_eq_right

@[simp] theorem rclassField_packWord : rclassField (packWord op id rc vt n) = rc := by
  rw [rclassField, packWord, BitVec.extractLsb'_append_eq_of_le (by decide),
    BitVec.extractLsb'_append_eq_of_le (by decide), BitVec.extractLsb'_append_eq_of_le (by decide)]
  exact BitVec.extractLsb'_append_eq_right

@[simp] theorem vtypeField_packWord : vtypeField (packWord op id rc vt n) = vt := by
  rw [vtypeField, packWord, BitVec.extractLsb'_append_eq_of_le (by decide),
    BitVec.extractLsb'_append_eq_of_le (by decide)]
  exact BitVec.extractLsb'_append_eq_right

@[simp] theorem ignoredField_packWord : ignoredField (packWord op id rc vt n) = 0 := by
  rw [ignoredField, packWord, BitVec.extractLsb'_append_eq_of_le (by decide)]
  exact BitVec.extractLsb'_append_eq_right

@[simp] theorem countField_packWord : countField (packWord op id rc vt n) = n :=
  BitVec.extractLsb'_append_eq_right

end

/-- A command word is its fields and its ignored bits. -/
theorem commandWord_ext {cw cw' : CommandWord} (hop : opField cw = opField cw') (hid : idField cw = idField cw')
    (hrc : rclassField cw = rclassField cw') (hvt : vtypeField cw = vtypeField cw')
    (hign : ignoredField cw = ignoredField cw') (hn : countField cw = countField cw') : cw = cw' := by
  have hbits {start len : Nat} (h : cw.extractLsb' start len = cw'.extractLsb' start len) {k : Nat} (hk : start ≤ k)
      (hlt : k < start + len) : cw.getLsbD k = cw'.getLsbD k := by
    have hj := congrArg (·.getLsbD (k - start)) h
    simp only [BitVec.getLsbD_extractLsb', Nat.add_sub_cancel' hk] at hj
    simpa [show k - start < len by omega] using hj
  refine BitVec.eq_of_getLsbD_eq fun k hk => ?_
  rcases Nat.lt_or_ge k 9 with h9 | h9
  · exact hbits hn (Nat.zero_le k) h9
  rcases Nat.lt_or_ge k 12 with h12 | h12
  · exact hbits hign h9 h12
  rcases Nat.lt_or_ge k 14 with h14 | h14
  · exact hbits hvt h12 h14
  rcases Nat.lt_or_ge k 16 with h16 | h16
  · exact hbits hrc h14 h16
  rcases Nat.lt_or_ge k 24 with h24 | h24
  · exact hbits hid h16 h24
  · exact hbits hop h24 hk

/-- The fields that the operation of `i` uses hold its operands (R102). -/
def CarriesOperands (cw : CommandWord) : Instr → Prop
  | .now => True
  | .register id rc vt => idField cw = id ∧ rclassField cw = classCode rc ∧ vtypeField cw = vt.code
  | .submit id n => idField cw = id ∧ countField cw = n
  | .pending rc => rclassField cw = classCode rc
  | .clear rc => rclassField cw = classCode rc
  | .encode rc => rclassField cw = classCode rc
  | .decode n => countField cw = n
  | .tick => True

open Machine in
/-- What a word decodes to is read off its fields. -/
theorem decode_eq_ok_iff {cw : CommandWord} {i : Instr} :
    decode cw = .ok i ↔ opField cw = opcode i ∧ CarriesOperands cw i := by
  constructor
  · intro h
    unfold decode at h
    split_ifs at h with h1 h2 h3 h4 h5 h6 h7 h8 <;> cases h
    · exact ⟨h1, trivial⟩
    · exact ⟨h2, rfl, (classCode_ofCode _).symm, (VarType.code_ofCode _).symm⟩
    · exact ⟨h3, rfl, rfl⟩
    · exact ⟨h4, (classCode_ofCode _).symm⟩
    · exact ⟨h5, (classCode_ofCode _).symm⟩
    · exact ⟨h6, (classCode_ofCode _).symm⟩
    · exact ⟨h7, rfl⟩
    · exact ⟨h8, trivial⟩
  · rintro ⟨hop, h⟩
    cases i with
    | now => exact decode_of_opcode_now hop
    | register id rc vt =>
      obtain ⟨hid, hrc, hvt⟩ := h
      rw [decode_of_opcode_register hop, hid, hrc, hvt, ofCode_classCode, VarType.ofCode_code]
    | submit id n =>
      obtain ⟨hid, hn⟩ := h
      rw [decode_of_opcode_submit hop, hid, hn]
    | pending rc => rw [decode_of_opcode_pending hop, show rclassField cw = _ from h, ofCode_classCode]
    | clear rc => rw [decode_of_opcode_clear hop, show rclassField cw = _ from h, ofCode_classCode]
    | encode rc => rw [decode_of_opcode_encode hop, show rclassField cw = _ from h, ofCode_classCode]
    | decode n => rw [decode_of_opcode_decode hop, show countField cw = n from h]
    | tick => exact decode_of_opcode_tick hop

theorem opField_encode (i : Instr) : opField (encode i) = opcode i := by
  cases i <;> exact Laws.opField_packWord ..

theorem carriesOperands_encode (i : Instr) : CarriesOperands (encode i) i := by
  cases i <;> simp [CarriesOperands, encode]

/-- Settles O2: the encoder puts the opcode and each operand into its field. -/
theorem decodeInvertsEncode : Obligations.DecodeInvertsEncode :=
  fun i => decode_eq_ok_iff.2 ⟨opField_encode i, carriesOperands_encode i⟩

section
variable (cw m : CommandWord)

@[simp] theorem opField_and : opField (cw &&& m) = opField cw &&& opField m := BitVec.extractLsb'_and
@[simp] theorem idField_and : idField (cw &&& m) = idField cw &&& idField m := BitVec.extractLsb'_and
@[simp] theorem rclassField_and : rclassField (cw &&& m) = rclassField cw &&& rclassField m := BitVec.extractLsb'_and
@[simp] theorem vtypeField_and : vtypeField (cw &&& m) = vtypeField cw &&& vtypeField m := BitVec.extractLsb'_and
@[simp] theorem ignoredField_and : ignoredField (cw &&& m) = ignoredField cw &&& ignoredField m :=
  BitVec.extractLsb'_and
@[simp] theorem countField_and : countField (cw &&& m) = countField cw &&& countField m := BitVec.extractLsb'_and

end

/-! The used bits are whole fields. -/

@[simp] theorem usedMask_now : usedMask .now = packWord (.allOnes 8) 0 0 0 0 := rfl
@[simp] theorem usedMask_register (id : VarId) (rc : Option RateClass) (vt : VarType) :
    usedMask (.register id rc vt) = packWord (.allOnes 8) (.allOnes 8) (.allOnes 2) (.allOnes 2) 0 := rfl
@[simp] theorem usedMask_submit (id : VarId) (n : BitVec 9) :
    usedMask (.submit id n) = packWord (.allOnes 8) (.allOnes 8) 0 0 (.allOnes 9) := rfl
@[simp] theorem usedMask_pending (rc : Option RateClass) :
    usedMask (.pending rc) = packWord (.allOnes 8) 0 (.allOnes 2) 0 0 := rfl
@[simp] theorem usedMask_clear (rc : Option RateClass) :
    usedMask (.clear rc) = packWord (.allOnes 8) 0 (.allOnes 2) 0 0 := rfl
@[simp] theorem usedMask_encode (rc : Option RateClass) :
    usedMask (.encode rc) = packWord (.allOnes 8) 0 (.allOnes 2) 0 0 := rfl
@[simp] theorem usedMask_decode (n : BitVec 9) : usedMask (.decode n) = packWord (.allOnes 8) 0 0 0 (.allOnes 9) := rfl
@[simp] theorem usedMask_tick : usedMask .tick = packWord (.allOnes 8) 0 0 0 0 := rfl

/-- The opcode is among the used bits. -/
theorem opField_usedMask (i : Instr) : opField (usedMask i) = .allOnes 8 := by
  cases i <;> simp [-BitVec.reduceAllOnes, Laws.opField_packWord]

/-- The operands are among the used bits. -/
theorem carriesOperands_and_usedMask {cw : CommandWord} {i : Instr} :
    CarriesOperands (cw &&& usedMask i) i ↔ CarriesOperands cw i := by
  cases i <;> simp [-BitVec.reduceAllOnes, CarriesOperands]

theorem decode_and_usedMask {cw : CommandWord} {i : Instr} :
    decode (cw &&& usedMask i) = .ok i ↔ decode cw = .ok i := by
  rw [decode_eq_ok_iff, decode_eq_ok_iff, carriesOperands_and_usedMask, opField_and, opField_usedMask,
    BitVec.and_allOnes]

/-- A mask that leaves out the ignored bits acts on each field. -/
theorem and_packWord (cw : CommandWord) (op id : BitVec 8) (rc vt : BitVec 2) (n : BitVec 9) :
    cw &&& packWord op id rc vt n = packWord (opField cw &&& op) (idField cw &&& id) (rclassField cw &&& rc)
      (vtypeField cw &&& vt) (countField cw &&& n) := by
  apply commandWord_ext <;> simp [Laws.opField_packWord]

/-- Nothing but the opcode and the operands is among the used bits. -/
theorem encode_eq_and_usedMask {cw : CommandWord} {i : Instr} (h : decode cw = .ok i) :
    encode i = cw &&& usedMask i := by
  obtain ⟨hop, hcarries⟩ := decode_eq_ok_iff.1 h
  cases i <;> simp_all [-BitVec.reduceAllOnes, and_packWord, CarriesOperands, encode]

/-- Settles O3: the encoder fills the used bits and no others, and the decoder reads the used bits only. -/
theorem ignoredBitsDoNotMatter : Obligations.IgnoredBitsDoNotMatter := by
  refine fun cw i h => ⟨encode_eq_and_usedMask h, fun cw' hcw' => ?_⟩
  rw [← decode_and_usedMask, hcw', decode_and_usedMask]
  exact h

/-- The decoder's error, and the opcodes that give it (R112). -/
theorem decode_eq_error_iff {cw : CommandWord} {e : DecodeError} : decode cw = .error e ↔
    e = .undefinedOpcode (opField cw) ∧ ((opField cw).toNat = 0 ∨ 9 ≤ (opField cw).toNat) := by
  unfold decode
  split_ifs with h1 h2 h3 h4 h5 h6 h7 h8
  case neg =>
    simp only [Except.error.injEq, eq_comm (a := e), iff_self_and]
    rintro -
    bv_omega
  all_goals simp [*]

/-- Settles O4: the decoder answers an operation where it does not answer its one error. -/
theorem exactlyTheEightOpcodesDecode : Obligations.ExactlyTheEightOpcodesDecode := by
  refine fun cw => ⟨?_, fun i h => (decode_eq_ok_iff.1 h).1.symm, fun e h => (decode_eq_error_iff.1 h).1⟩
  change _ ↔ 1 ≤ (opField cw).toNat ∧ (opField cw).toNat ≤ 8
  have herror : (∃ e, decode cw = .error e) ↔ (opField cw).toNat = 0 ∨ 9 ≤ (opField cw).toNat := by
    simp only [decode_eq_error_iff, exists_eq_left]
  cases hdec : decode cw with
  | ok i =>
    have hdefined := mt herror.2 (by simp [hdec])
    simp only [Except.ok.injEq, exists_eq', true_iff]
    omega
  | error e =>
    have hundefined := herror.1 ⟨e, hdec⟩
    simp only [reduceCtorEq, exists_false, false_iff]
    omega

/-- Settles O1: each word evaluated. -/
theorem specCommandWordsDecode : Obligations.SpecCommandWordsDecode := by
  unfold Obligations.SpecCommandWordsDecode
  decide

end Sys2Proof
end

section
/-! The codec's laws (spec/43_packet_codec.md): ENCODE read back by DECODE (R234), the limit of a frame (R206), and what
a decoding depends on (R226, R228, R230). -/

namespace Sys2Proof.Machine

/-- The pairs that a list of entries stands for in a frame. -/
def Entry.pair (e : Entry) : Pair := (e.id, e.payload)

theorem pairRegion_eq_flatMap_pair (p : List Entry) :
    pairRegion p = (p.map Entry.pair).flatMap fun q => q.1 :: q.2 := by
  rw [pairRegion, List.flatMap_map]
  rfl

/-- The pair region of a pending list is cut into its entries. -/
theorem pendingList_cutsInto (c : RateClass) (slots : List Slot) :
    CutsInto slots (pairRegion (pendingList c slots)) ((pendingList c slots).map Entry.pair) := by
  refine cutsInto_iff.2 ⟨pairRegion_eq_flatMap_pair _, fun q hq => ?_⟩
  obtain ⟨e, he, rfl⟩ := List.mem_map.1 hq
  obtain ⟨k, hfind, -, -, hentry⟩ := pendingEntry_eq_some_iff.1 (mem_pendingList.1 he).2
  refine ⟨k, hfind, ?_⟩
  rw [Entry.pair, payload_length_of_mem he, hentry]

/-- The decoder takes a frame of the encoder, with whatever pairs the registry cuts its region into. -/
theorem decodeFrame_encodeList {cfg : Config} {slots : List Slot} {p : List Entry} {t : Time} {f : List Byte}
    {ps : List Pair} (h : encodeList cfg p t = some f) (hp : (pairRegion p).length = regionLength p)
    (hcut : CutsInto slots (pairRegion p) ps) : decodeFrame cfg slots f = .ok ⟨trunc32 t, pairRegion p, ps⟩ := by
  obtain ⟨hsum, hend⟩ := encodeList_trailer h hp
  have hregion : (f.drop 6).take (regionLength p) = pairRegion p := by
    rw [encodeList_drop_six h, List.take_left' hp]
  rw [← hregion] at hcut ⊢
  rw [decodeFrame_of_cutsInto (encodeList_startByte h) (encodeList_lengthByte h) (encodeList_length h hp).ge hend
    hsum.symm hcut, encodeList_timestamp h, fromLe32_le32]

/-- Settles O38: every field of the frame is where the decoder looks for it, and the pair region is cut into the entries
of the pending list. -/
theorem decodeReadsBackEncode : Obligations.DecodeReadsBackEncode := by
  intro s c t f h
  have hp := pendingRegion_length c s.blk.slots
  have hok := decodeFrame_encodeList h hp (pendingList_cutsInto c s.blk.slots)
  refine ⟨hok, ?_⟩
  intro s'
  have hlen : f.length ≤ 256 := by
    rw [encodeList_length h hp]
    exact Nat.add_le_add_right (encodeList_eq_some_iff.1 h).1 8
  have hcount : (BitVec.ofNat 9 f.length).toNat = f.length := Nat.mod_eq_of_lt (by omega)
  have hport : wbufPrefix s'.io.port.wbuf (BitVec.ofNat 9 f.length).toNat = f := by
    rw [hcount]
    exact wbufPrefix_self f
  exact exec_decode_of_ok (hcount.trans_le hlen) (by rw [hport]; exact hok)

/-- `L` is 5 for each four-byte variable and 2 for each Bool. -/
theorem regionLength_eq_counts (p : List Entry) : regionLength p =
    5 * p.countP (fun e => decide (e.vtype ≠ .bool)) + 2 * p.countP (fun e => decide (e.vtype = .bool)) := by
  induction p with
  | nil => rfl
  | cons e p ih =>
    rw [regionLength_cons, ih, List.countP_cons, List.countP_cons]
    cases e.vtype <;> simp [VarType.width] <;> omega

/-- Settles O34: the encoder fails where `L`, counted by types, is above 248. -/
theorem encodeFailsExactlyAboveTheLimit : Obligations.EncodeFailsExactlyAboveTheLimit := by
  intro cfg p t
  rw [encodeList_eq_none_iff, regionLength_eq_counts]

/-- Settles O36: `CutsInto` is what `parsePairs` finds. -/
theorem pairRegionIsCutInOneWay : Obligations.PairRegionIsCutInOneWay :=
  fun _ _ _ => parsePairs_eq_some_iff_cutsInto

/-- The frame occupies as many bytes as its LENGTH and the overhead say. -/
theorem decodeFrame_region_length {cfg : Config} {slots : List Slot} {bytes : List Byte} {d : Decoded}
    (h : decodeFrame cfg slots bytes = .ok d) : d.region.length = (byteAt bytes 1).toNat := by
  obtain ⟨-, hlen, -, -, hregion, -⟩ := decodeFrame_eq_ok_iff.1 h
  rw [hregion, List.length_take, List.length_drop]
  omega

/-- The decoder looks at the bytes of the frame only. -/
theorem decodeFrame_of_take_eq {cfg : Config} {slots : List Slot} {bytes bytes' : List Byte} {d : Decoded}
    (h : decodeFrame cfg slots bytes = .ok d) (hlen : d.region.length + 8 ≤ bytes'.length)
    (htake : bytes'.take (d.region.length + 8) = bytes.take (d.region.length + 8)) :
    decodeFrame cfg slots bytes' = .ok d := by
  obtain ⟨hstart, -, hend, hsum, hregion, htime, hpairs⟩ := decodeFrame_eq_ok_iff.1 h
  rw [decodeFrame_region_length h] at hlen htake
  have hbyte {i : Nat} (hi : i < (byteAt bytes 1).toNat + 8) : byteAt bytes' i = byteAt bytes i := by
    rw [← byteAt_take hi, htake, byteAt_take hi]
  have hpart (m n : Nat) (hmn : m + n ≤ (byteAt bytes 1).toNat + 8) :
      (bytes'.drop m).take n = (bytes.drop m).take n := by
    have hcut := congrArg (fun l => (l.drop m).take n) htake
    rwa [List.drop_take, List.drop_take, List.take_take, List.take_take,
      Nat.min_eq_left (show n ≤ (byteAt bytes 1).toNat + 8 - m by omega)] at hcut
  rw [decodeFrame_eq_ok_iff, hbyte (i := 1) (by omega), hbyte (by omega), hbyte (by omega), hbyte (by omega),
    hpart 6 _ (by omega), hpart 2 4 (by omega)]
  refine ⟨hstart, hlen, hend, ?_, hregion, htime, hpairs⟩
  rw [← hsum]
  exact congrArg xorAll (hpart 0 _ (by omega))

/-- Settles O39: appending and cutting off after END leave the bytes of the frame. -/
theorem trailingBytesAreIgnored : Obligations.TrailingBytesAreIgnored := by
  intro cfg slots bytes extra d h
  have hlen : d.region.length + 8 ≤ bytes.length := by
    obtain ⟨-, hlen, -⟩ := decodeFrame_eq_ok_iff.1 h
    rwa [decodeFrame_region_length h]
  refine ⟨hlen, decodeFrame_of_take_eq h ?_ (List.take_append_of_le_length hlen), decodeFrame_of_take_eq h ?_ ?_⟩
  · rw [List.length_append]
    omega
  · rw [List.length_take]
    omega
  · rw [List.take_take, Nat.min_self]

/-- `find` looks at declarations only. -/
theorem find_eq_findIdx?_declarations (slots : List Slot) (id : VarId) :
    find slots id = (declarations slots).findIdx? fun d => d.any fun q => q.1 == id := by
  rw [find, declarations, List.findIdx?_map]
  congr 1
  funext sl
  cases h : sl.occupied <;> simp [Slot.holds, h]

/-- The type of the slot that `find` gives is a declaration. -/
theorem declarations_getElem?_of_find {slots : List Slot} {id : VarId} {k : Nat} (h : find slots id = some k) :
    (declarations slots)[k]? = some (some (id, (slotAt slots k).vtype)) := by
  obtain ⟨hk, hocc, hid, -⟩ := firstHolder_iff.2 ⟨h, rfl⟩
  rw [declarations, List.getElem?_map, hk, Option.map_some, if_pos hocc, hid]

theorem cutsInto_of_declarations_eq {slots slots' : List Slot} (h : declarations slots = declarations slots')
    {region : List Byte} {ps : List Pair} (hcut : CutsInto slots region ps) : CutsInto slots' region ps := by
  obtain ⟨hregion, hpairs⟩ := cutsInto_iff.1 hcut
  refine cutsInto_iff.2 ⟨hregion, fun p hp => ?_⟩
  obtain ⟨k, hfind, hwidth⟩ := hpairs p hp
  have hfind' : find slots' p.1 = some k := by
    rw [find_eq_findIdx?_declarations, ← h, ← find_eq_findIdx?_declarations, hfind]
  have hsame := declarations_getElem?_of_find hfind
  rw [h, declarations_getElem?_of_find hfind'] at hsame
  have htype : (slotAt slots' k).vtype = (slotAt slots k).vtype := by simpa using hsame
  exact ⟨k, hfind', by rw [hwidth, htype]⟩

theorem parsePairs_congr_declarations {slots slots' : List Slot} (h : declarations slots = declarations slots')
    (region : List Byte) : parsePairs slots region.length region = parsePairs slots' region.length region := by
  ext ps
  rw [parsePairs_eq_some_iff_cutsInto, parsePairs_eq_some_iff_cutsInto]
  exact ⟨cutsInto_of_declarations_eq h, cutsInto_of_declarations_eq h.symm⟩

/-- Settles O42: of the registry the decoder uses only the cut of the pair region. -/
theorem decodeReadsOnlyDeclarations : Obligations.DecodeReadsOnlyDeclarations := by
  intro cfg slots slots' bytes h
  simp only [decodeFrame, parsePairs_congr_declarations h]

end Sys2Proof.Machine
end

section
/-! Flipped bits in a frame (spec/43_packet_codec.md R236, R238): what a flip does to a byte, to the other bytes and to
the checksum, and which test of DECODE meets it. -/

namespace Sys2Proof

/-- Bit `b` of byte `i` flipped. -/
def flipBit (f : List Byte) (i b : Nat) : List Byte := f.set i (byteAt f i ^^^ BitVec.twoPow 8 b)

@[simp] theorem flipBit_length (f : List Byte) (i b : Nat) : (flipBit f i b).length = f.length := List.length_set

theorem byteAt_flipBit_self {f : List Byte} {i : Nat} (hi : i < f.length) (b : Nat) :
    byteAt (flipBit f i b) i = byteAt f i ^^^ BitVec.twoPow 8 b := by
  simp [byteAt, flipBit, List.getD, hi]

theorem byteAt_flipBit_of_ne (f : List Byte) {i j : Nat} (h : i ≠ j) (b : Nat) :
    byteAt (flipBit f i b) j = byteAt f j := by
  simp [byteAt, flipBit, List.getD, h]

theorem twoPow_ne_zero {b : Nat} (hb : b < 8) : BitVec.twoPow 8 b ≠ 0 := by
  intro h
  have hbit := congrArg (·.getLsbD b) h
  simp [hb] at hbit

theorem xor_twoPow_ne {b : Nat} (hb : b < 8) (v : Byte) : v ^^^ BitVec.twoPow 8 b ≠ v := by
  intro h
  rw [← BitVec.xor_eq_zero_iff, BitVec.xor_comm, ← BitVec.xor_assoc, BitVec.xor_self, BitVec.zero_xor] at h
  exact twoPow_ne_zero hb h

/-- A flip upwards makes the byte greater. -/
theorem toNat_lt_xor_twoPow {b : Nat} (hb : b < 8) {v : Byte} (h : v.getLsbD b = false) :
    v.toNat < (v ^^^ BitVec.twoPow 8 b).toNat := by
  refine Nat.lt_of_testBit b h ?_ fun j hj => ?_
  · rw [BitVec.testBit_toNat, BitVec.getLsbD_xor, h]
    simp [hb]
  · rw [BitVec.testBit_toNat, BitVec.testBit_toNat, BitVec.getLsbD_xor]
    simp [show b ≠ j by omega]

theorem byteAt_flipBit_ne {f : List Byte} {i b : Nat} (hi : i < f.length) (hb : b < 8) :
    byteAt (flipBit f i b) i ≠ byteAt f i := by
  rw [byteAt_flipBit_self hi]
  exact xor_twoPow_ne hb _

/-- The checksum of a front part moves by the bit flipped in it. -/
theorem xorAll_take_flipBit {f : List Byte} {i n : Nat} (hi : i < f.length) (hn : i < n) (b : Nat) :
    xorAll ((flipBit f i b).take n) = xorAll (f.take n) ^^^ BitVec.twoPow 8 b := by
  rw [flipBit, List.take_set, xorAll_set (by rw [List.length_take]; omega), byteAt_take hn, BitVec.xor_assoc,
    ← BitVec.xor_assoc (byteAt f i), BitVec.xor_self, BitVec.zero_xor]

/-- Bytes up to the flipped one have their old checksum. -/
theorem xorAll_take_flipBit_of_le (f : List Byte) {i n : Nat} (h : n ≤ i) (b : Nat) :
    xorAll ((flipBit f i b).take n) = xorAll (f.take n) := by
  rw [flipBit, List.take_set, List.set_eq_of_length_le]
  rw [List.length_take]
  omega

namespace Machine

section
variable {cfg : Config} {p : List Entry} {t : Time} {f : List Byte} {i b : Nat} (slots : List Slot)
  (h : encodeList cfg p t = some f) (hp : (pairRegion p).length = regionLength p) (hb : b < 8)
include h hb

/-- START is tested first. -/
theorem decodeFrame_flip_start (hpos : 0 < f.length) :
    decodeFrame cfg slots (flipBit f 0 b) = .error .framingError := by
  apply decodeFrame_of_startByte_ne
  rw [← encodeList_startByte h]
  exact byteAt_flipBit_ne hpos hb

include hp

/-- A greater LENGTH promises more bytes than there are. -/
theorem decodeFrame_flip_length_up (hbit : (byteAt f 1).getLsbD b = false) :
    decodeFrame cfg slots (flipBit f 1 b) = .error .truncatedFrame := by
  have hlen := encodeList_length h hp
  have hup := toNat_lt_xor_twoPow hb hbit
  rw [encodeList_lengthByte h, ← byteAt_flipBit_self (show 1 < f.length by omega)] at hup
  apply decodeFrame_of_length_lt
  · rw [flipBit_length]
    omega
  · rw [byteAt_flipBit_of_ne f one_ne_zero, encodeList_startByte h]
  · rw [flipBit_length]
    omega

omit hb in
/-- Where START and LENGTH stand, the decoder looks for END and the checksum in their old places. -/
theorem flipBit_keeps_layout (hi : 2 ≤ i) : byteAt (flipBit f i b) 0 = cfg.startByte ∧
    (byteAt (flipBit f i b) 1).toNat = regionLength p ∧ regionLength p + 8 ≤ (flipBit f i b).length := by
  rw [byteAt_flipBit_of_ne f (show i ≠ 0 by omega), byteAt_flipBit_of_ne f (show i ≠ 1 by omega), flipBit_length]
  exact ⟨encodeList_startByte h, encodeList_lengthByte h, (encodeList_length h hp).ge⟩

theorem decodeFrame_flip_end : decodeFrame cfg slots (flipBit f (7 + regionLength p) b) = .error .framingError := by
  have hlen := encodeList_length h hp
  obtain ⟨hstart, hl, hlong⟩ := flipBit_keeps_layout (b := b) h hp (i := 7 + regionLength p) (by omega)
  apply decodeFrame_of_endByte_ne hstart hl hlong
  rw [← (encodeList_trailer h hp).2]
  exact byteAt_flipBit_ne (by omega) hb

/-- A flip in the bytes that the checksum covers moves their checksum; one in CHECKSUM moves what that is compared
with. -/
theorem decodeFrame_flip_checked (hi : 2 ≤ i) (hi' : i ≤ 6 + regionLength p) :
    decodeFrame cfg slots (flipBit f i b) = .error .checksumError := by
  have hlen := encodeList_length h hp
  obtain ⟨hsum, hend⟩ := encodeList_trailer h hp
  obtain ⟨hstart, hl, hlong⟩ := flipBit_keeps_layout (b := b) h hp hi
  apply decodeFrame_of_checksum_ne hstart hl hlong
  · rw [byteAt_flipBit_of_ne f (by omega), hend]
  rcases hi'.lt_or_eq with hlt | rfl
  · rw [xorAll_take_flipBit (by omega) hlt, byteAt_flipBit_of_ne f hlt.ne, ← hsum]
    exact xor_twoPow_ne hb _
  · rw [xorAll_take_flipBit_of_le f le_rfl, ← hsum]
    exact (byteAt_flipBit_ne (by omega) hb).symm

end

/-- Settles O40: each byte of the frame has its test. -/
theorem singleBitFlipIsDetected : Obligations.SingleBitFlipIsDetected := by
  intro cfg c slots slots' t f i b h hi hb flipped
  have hp := pendingRegion_length c slots
  have hlen := encodeList_length h hp
  refine ⟨fun h2 h6 => ?checked, ?ends, ?length⟩
  case checked => exact decodeFrame_flip_checked slots' h hp hb h2 (by omega)
  case ends =>
    rintro (rfl | hlast)
    · exact decodeFrame_flip_start slots' h hb hi
    · obtain rfl : i = 7 + regionLength (pendingList c slots) := by omega
      exact decodeFrame_flip_end slots' h hp hb
  case length =>
    rintro rfl hbit
    exact decodeFrame_flip_length_up slots' h hp hb hbit

/-- A flip in TIMESTAMP leaves the bytes from the pair region on. -/
theorem drop_six_flipBit (f : List Byte) {i : Nat} (hi : i < 6) (b : Nat) : (flipBit f i b).drop 6 = f.drop 6 :=
  List.drop_set_of_lt hi

/-- Two flips of one bit column in TIMESTAMP cancel in the checksum, and every other test looks elsewhere. -/
theorem decodeFrame_flip_timestamp_twice {cfg : Config} {slots : List Slot} {f : List Byte} {d : Decoded} {i j : Nat}
    (b : Nat) (h : decodeFrame cfg slots f = .ok d) (hi : 2 ≤ i) (hi' : i < 6) (hj : 2 ≤ j) (hj' : j < 6) :
    ∃ time, decodeFrame cfg slots (flipBit (flipBit f i b) j b) = .ok ⟨time, d.region, d.pairs⟩ := by
  obtain ⟨hstart, hlen, hend, hsum, hregion, -, hpairs⟩ := decodeFrame_eq_ok_iff.1 h
  have hbyte {k : Nat} (hki : i ≠ k) (hkj : j ≠ k) : byteAt (flipBit (flipBit f i b) j b) k = byteAt f k := by
    rw [byteAt_flipBit_of_ne _ hkj, byteAt_flipBit_of_ne _ hki]
  have hxor : xorAll ((flipBit (flipBit f i b) j b).take (6 + (byteAt f 1).toNat)) =
      xorAll (f.take (6 + (byteAt f 1).toNat)) := by
    rw [xorAll_take_flipBit (by rw [flipBit_length]; omega) (by omega), xorAll_take_flipBit (by omega) (by omega),
      BitVec.xor_assoc, BitVec.xor_self, BitVec.xor_zero]
  refine ⟨fromLe32 (((flipBit (flipBit f i b) j b).drop 2).take 4), decodeFrame_eq_ok_iff.2 ?_⟩
  rw [hbyte (k := 1) (by omega) (by omega), hbyte (by omega) (by omega), hbyte (by omega) (by omega),
    hbyte (by omega) (by omega), hxor, drop_six_flipBit _ hj', drop_six_flipBit _ hi', flipBit_length, flipBit_length]
  exact ⟨hstart, hlen, hend, hsum, hregion, rfl, hpairs⟩

/-- The TIMESTAMP bytes of an accepted frame are read off its time. -/
theorem byteAt_timestamp_of_decodeFrame {cfg : Config} {slots : List Slot} {f : List Byte} {d : Decoded}
    (h : decodeFrame cfg slots f = .ok d) {i : Nat} (hi : i < 4) :
    byteAt f (2 + i) = d.time.extractLsb' (8 * i) 8 := byteAt_of_timestamp (le32_decodeFrame_time h).symm hi

/-- Settles O41: the frame is accepted, and its time spells the flipped bytes. -/
theorem evenColumnFlipIsAccepted : Obligations.EvenColumnFlipIsAccepted := by
  intro cfg slots f d i j b h hi hij hj hb g
  have hg : g = flipBit (flipBit f i b) j b := by
    rw [flipBit, byteAt_flipBit_of_ne f hij.ne]
    rfl
  obtain ⟨time, hok⟩ := decodeFrame_flip_timestamp_twice b h hi (by omega) (j := j) (by omega) (by omega)
  rw [hg]
  refine ⟨_, hok, rfl, rfl, fun hsame => ?_⟩
  obtain ⟨k, rfl⟩ := Nat.exists_eq_add_of_le hi
  have hkept : byteAt (flipBit (flipBit f (2 + k) b) j b) (2 + k) = byteAt f (2 + k) := by
    rw [byteAt_timestamp_of_decodeFrame hok (by omega), hsame, byteAt_timestamp_of_decodeFrame h (by omega)]
  obtain ⟨-, hlen, -⟩ := decodeFrame_eq_ok_iff.1 h
  rw [byteAt_flipBit_of_ne _ hij.ne'] at hkept
  exact byteAt_flipBit_ne (by omega) hb hkept

end Machine
end Sys2Proof
end

section
/-! A command as what it does and what it answers (spec/60_exceptions.md R296, R297, spec/30_encoding.md R106): every
operation leaves a state and adds one response to it. -/

namespace Sys2Proof.Machine

/-- The registry after REGISTER or SUBMIT: written on success only. -/
def State.written (r : Except Status (List Slot)) (s : State) : State :=
  match r with
  | .error _ => s
  | .ok slots => s.setSlots slots

/-- The response to REGISTER or SUBMIT. -/
def writtenAnswer (r : Except Status (List Slot)) : Response :=
  match r with
  | .error e => ⟨e, 0, []⟩
  | .ok _ => ⟨.ok, 0, []⟩

theorem commitSlots_eq_respond (r : Except Status (List Slot)) (s : State) :
    s.commitSlots r = (s.written r).respond (writtenAnswer r) := by
  cases r <;> rfl

/-- The state an operation leaves, but for its response. -/
def effectOf : Instr → State → State
  | .now, s => (now s).2
  | .register id rc vt, s => s.written (register s.blk.slots id rc vt)
  | .submit id n, s => s.written (submit s.blk.slots id n.toNat s.io.port.wbuf)
  | .pending _, s => s
  | .clear none, s => s
  | .clear (some c), s => clearClass c s
  | .encode _, s => s
  | .decode _, s => s
  | .tick, s => (tickWalk s).state

/-- The response of ENCODE to the encoder's result. -/
def encodeAnswer : Option (List Byte) → Response
  | none => ⟨.frameTooLarge, 0, []⟩
  | some f => ⟨.ok, 0, f⟩

/-- The response of DECODE to the decoder's result. -/
def decodeAnswer : Except Status Decoded → Response
  | .error e => ⟨e, 0, []⟩
  | .ok d => ⟨.ok, zext64 d.time, d.region⟩

/-- The response to an operation. -/
def answerTo : Instr → State → Response
  | .now, s => ⟨.ok, (now s).1, []⟩
  | .register id rc vt, s => writtenAnswer (register s.blk.slots id rc vt)
  | .submit id n, s => writtenAnswer (submit s.blk.slots id n.toNat s.io.port.wbuf)
  | .pending none, _ => ⟨.illegalCommand, 0, []⟩
  | .pending (some c), s => ⟨.ok, BitVec.ofNat 64 (pendingList c s.blk.slots).length,
      (pendingList c s.blk.slots).flatMap Entry.bytes⟩
  | .clear none, _ => ⟨.illegalCommand, 0, []⟩
  | .clear (some _), _ => ⟨.ok, 0, []⟩
  | .encode none, _ => ⟨.illegalCommand, 0, []⟩
  | .encode (some c), s => encodeAnswer (encodeList s.cfg (pendingList c s.blk.slots) s.io.port.arg64)
  | .decode n, s =>
    if n.toNat > maxPacket then ⟨.illegalCommand, 0, []⟩
    else decodeAnswer (decodeFrame s.cfg s.blk.slots (wbufPrefix s.io.port.wbuf n.toNat))
  | .tick, s => ⟨tickStatus (tickWalk s).results, tickData (tickWalk s).results, []⟩

/-- What every operation does: it leaves its effect and adds its response. -/
theorem exec_eq (i : Instr) (s : State) : exec i s = .next ((effectOf i s).respond (answerTo i s)) := by
  cases i with
  | now => rfl
  | register id rc vt => exact congrArg _ (commitSlots_eq_respond _ s)
  | submit id n => exact congrArg _ (commitSlots_eq_respond _ s)
  | pending rc => cases rc <;> rfl
  | clear rc => cases rc <;> rfl
  | encode rc =>
    cases rc with
    | none => rfl
    | some c =>
      cases h : encodeList s.cfg (pendingList c s.blk.slots) s.io.port.arg64 with
      | none => rw [exec_encode_of_none h, answerTo, h]; rfl
      | some f => rw [exec_encode_of_some h, answerTo, h]; rfl
  | decode n =>
    by_cases hn : n.toNat > maxPacket
    · rw [exec_decode_of_count_gt hn, answerTo, if_pos hn]
      rfl
    · rw [answerTo, if_neg hn]
      cases h : decodeFrame s.cfg s.blk.slots (wbufPrefix s.io.port.wbuf n.toNat) with
      | error e => exact exec_decode_of_error (not_lt.1 hn) h
      | ok d => exact exec_decode_of_ok (not_lt.1 hn) h
  | tick => rfl

theorem eq_of_exec {i : Instr} {s t : State} (h : exec i s = .next t) : t = (effectOf i s).respond (answerTo i s) := by
  cases (exec_eq i s).symm.trans h
  rfl

/-! ### What an effect leaves alone -/

@[simp] theorem written_cfg (r : Except Status (List Slot)) (s : State) : (s.written r).cfg = s.cfg := by
  cases r <;> rfl

@[simp] theorem written_io (r : Except Status (List Slot)) (s : State) : (s.written r).io = s.io := by
  cases r <;> rfl

@[simp] theorem written_lastRaw (r : Except Status (List Slot)) (s : State) :
    (s.written r).blk.lastRaw = s.blk.lastRaw := by
  cases r <;> rfl

@[simp] theorem written_accHigh (r : Except Status (List Slot)) (s : State) :
    (s.written r).blk.accHigh = s.blk.accHigh := by
  cases r <;> rfl

@[simp] theorem written_lastSent (r : Except Status (List Slot)) (s : State) :
    (s.written r).blk.lastSent = s.blk.lastSent := by
  cases r <;> rfl

@[simp] theorem written_sched (r : Except Status (List Slot)) (s : State) :
    (s.written r).blk.sched = s.blk.sched := by
  cases r <;> rfl

/-- No operation takes back or adds a response but its own. -/
theorem effectOf_responses (i : Instr) (s : State) : (effectOf i s).io.responses = s.io.responses := by
  cases i with
  | clear rc => cases rc <;> rfl
  | tick =>
    rw [effectOf]
    exact tickWalk_keeps (P := fun u => u.io.responses = s.io.responses)
      (fun c u hu => (tickClass_onlyCalledOut c u).responses.trans hu) rfl
  | _ => simp [effectOf]

theorem exec_responses (i : Instr) (s : State) :
    ((effectOf i s).respond (answerTo i s)).io.responses = s.io.responses ++ [answerTo i s] := by
  rw [respond_io_responses, effectOf_responses]

/-! ### Statuses -/

theorem register_error_mem {slots : List Slot} {id : VarId} {rc : Option RateClass} {vt : VarType} {e : Status}
    (h : register slots id rc vt = .error e) : e ∈ mayAnswer (.register id rc vt) := by
  unfold register at h
  split at h
  · cases h
    simp [mayAnswer]
  · split_ifs at h
    · cases h
      simp [mayAnswer]
    · cases h
      simp [mayAnswer]
    · split at h <;> cases h
      simp [mayAnswer]

theorem submit_error_mem {slots : List Slot} {id : VarId} {n : BitVec 9} {w : List Byte} {e : Status}
    (h : submit slots id n.toNat w = .error e) : e ∈ mayAnswer (.submit id n) := by
  unfold submit at h
  split at h
  · cases h
    simp [mayAnswer]
  · split_ifs at h
    cases h
    simp [mayAnswer]

theorem decodeFrame_error_mem {cfg : Config} {slots : List Slot} {bytes : List Byte} {e : Status} (n : BitVec 9)
    (h : decodeFrame cfg slots bytes = .error e) : e ∈ mayAnswer (.decode n) := by
  have htests : e = .framingError ∨ e = .truncatedFrame ∨ e = .checksumError := by
    unfold decodeFrame at h
    dsimp only at h
    split_ifs at h
    case neg => split at h <;> cases h; decide
    all_goals cases h; decide
  rcases htests with rfl | rfl | rfl <;> simp [mayAnswer]

theorem tickStatus_mem (r : PerClass TickResult) : tickStatus r ∈ mayAnswer .tick := by
  unfold tickStatus
  split <;> decide

/-- The status of a response is one that the operation may answer with. -/
theorem answerTo_status_mem (i : Instr) (s : State) : (answerTo i s).status ∈ mayAnswer i := by
  cases i with
  | now => exact List.mem_cons_self
  | register id rc vt =>
    rw [answerTo]
    cases h : register s.blk.slots id rc vt with
    | ok slots => exact List.mem_cons_self
    | error e => exact register_error_mem h
  | submit id n =>
    rw [answerTo]
    cases h : submit s.blk.slots id n.toNat s.io.port.wbuf with
    | ok slots => exact List.mem_cons_self
    | error e => exact submit_error_mem h
  | pending rc => cases rc <;> simp [answerTo, mayAnswer]
  | clear rc => cases rc <;> simp [answerTo, mayAnswer]
  | encode rc =>
    cases rc with
    | none => simp [answerTo, mayAnswer]
    | some c =>
      rw [answerTo]
      cases encodeList s.cfg (pendingList c s.blk.slots) s.io.port.arg64 <;> simp [encodeAnswer, mayAnswer]
  | decode n =>
    rw [answerTo]
    split_ifs
    · simp [mayAnswer]
    · cases h : decodeFrame s.cfg s.blk.slots (wbufPrefix s.io.port.wbuf n.toNat) with
      | ok d => exact List.mem_cons_self
      | error e => exact decodeFrame_error_mem n h
  | tick => exact tickStatus_mem _

/-- An error of REGISTER or SUBMIT leaves the registry. -/
theorem written_of_error {r : Except Status (List Slot)} (s : State) (h : (writtenAnswer r).status ≠ .ok) :
    s.written r = s ∧ writtenAnswer r = ⟨(writtenAnswer r).status, 0, []⟩ := by
  cases r with
  | error e => exact ⟨rfl, rfl⟩
  | ok slots => exact absurd rfl h

theorem encodeAnswer_of_error {r : Option (List Byte)} (h : (encodeAnswer r).status ≠ .ok) :
    encodeAnswer r = ⟨(encodeAnswer r).status, 0, []⟩ := by
  cases r with
  | none => rfl
  | some f => exact absurd rfl h

theorem decodeAnswer_of_error {r : Except Status Decoded} (h : (decodeAnswer r).status ≠ .ok) :
    decodeAnswer r = ⟨(decodeAnswer r).status, 0, []⟩ := by
  cases r with
  | error e => rfl
  | ok d => exact absurd rfl h

/-- An error other than TICK's comes with no data and without effect. -/
theorem effectOf_of_error {i : Instr} {s : State} (hi : i ≠ .tick) (h : (answerTo i s).status ≠ .ok) :
    effectOf i s = s ∧ answerTo i s = ⟨(answerTo i s).status, 0, []⟩ := by
  cases i with
  | now => exact absurd rfl h
  | register id rc vt => exact written_of_error s h
  | submit id n => exact written_of_error s h
  | pending rc =>
    cases rc with
    | none => exact ⟨rfl, rfl⟩
    | some c => exact absurd rfl h
  | clear rc =>
    cases rc with
    | none => exact ⟨rfl, rfl⟩
    | some c => exact absurd rfl h
  | encode rc =>
    cases rc with
    | none => exact ⟨rfl, rfl⟩
    | some c => exact ⟨rfl, encodeAnswer_of_error h⟩
  | decode n =>
    refine ⟨rfl, ?_⟩
    rw [answerTo] at h ⊢
    split_ifs at h ⊢
    · rfl
    · exact decodeAnswer_of_error h
  | tick => exact absurd rfl hi

/-- Settles O54: every operation adds its one response, whose status is one of its list. -/
theorem everyCommandAnswersOnce : Obligations.EveryCommandAnswersOnce := by
  refine fun i s => ⟨_, _, exec_eq i s, exec_responses i s, answerTo_status_mem i s, fun herr => ?_⟩
  by_cases hi : i = .tick
  · subst hi
    exact ⟨rfl, fun h => absurd rfl h⟩
  · obtain ⟨-, hanswer⟩ := effectOf_of_error hi herr
    rw [hanswer]
    exact ⟨rfl, fun _ => rfl⟩

/-- Settles O55: an operation that answers an error has no effect. -/
theorem errorsChangeNothing : Obligations.ErrorsChangeNothing := by
  refine fun i s hi => ⟨_, _, exec_eq i s, exec_responses i s, fun herr => ?_⟩
  obtain ⟨heffect, hanswer⟩ := effectOf_of_error hi herr
  rw [heffect, ← hanswer]

/-! ### The responses given before (R297) -/

/-- The state with other responses recorded. -/
def State.withResponses (old : List Response) (s : State) : State := { s with io := { s.io with responses := old } }

section
variable (old : List Response) (c : RateClass) (s : State)

@[simp] theorem withResponses_cfg : (s.withResponses old).cfg = s.cfg := rfl
@[simp] theorem withResponses_blk : (s.withResponses old).blk = s.blk := rfl
@[simp] theorem withResponses_port : (s.withResponses old).io.port = s.io.port := rfl

theorem now_withResponses : now (s.withResponses old) = ((now s).1, (now s).2.withResponses old) := rfl

theorem transmit_withResponses (f : List Byte) : transmit f (s.withResponses old) =
    ((transmit f s).1, (transmit f s).2.withResponses old) := rfl

theorem sendFrame_withResponses (f : List Byte) : sendFrame c f (s.withResponses old) =
    ((sendFrame c f s).1, (sendFrame c f s).2.withResponses old) := by
  unfold sendFrame
  rw [transmit_withResponses]
  dsimp only
  split_ifs <;> rfl

theorem serveDue_withResponses (t : Time) : serveDue c t (s.withResponses old) =
    ((serveDue c t s).1, (serveDue c t s).2.withResponses old) := by
  unfold serveDue
  dsimp only [withResponses_cfg, withResponses_blk]
  split_ifs
  · rfl
  · split
    · rfl
    · exact sendFrame_withResponses old c s _

theorem tickClass_withResponses : tickClass c (s.withResponses old) =
    ((tickClass c s).1, (tickClass c s).2.withResponses old) := by
  by_cases h : (now s).1 - s.blk.lastSent.get c < s.cfg.interval.get c
  · rw [tickClass_of_notDue h]
    exact tickClass_of_notDue (s := s.withResponses old) h
  · have hdue := BitVec.not_lt.1 h
    rw [tickClass_of_due hdue, ← serveDue_withResponses]
    exact tickClass_of_due (s := s.withResponses old) hdue

theorem tickWalk_withResponses : tickWalk (s.withResponses old) =
    { results := (tickWalk s).results, state := (tickWalk s).state.withResponses old } := by
  simp only [tickWalk, tickClass_withResponses]

theorem written_withResponses (r : Except Status (List Slot)) :
    (s.withResponses old).written r = (s.written r).withResponses old := by
  cases r <;> rfl

theorem effectOf_withResponses (i : Instr) :
    effectOf i (s.withResponses old) = (effectOf i s).withResponses old := by
  cases i with
  | register id rc vt => exact written_withResponses old s _
  | submit id n => exact written_withResponses old s _
  | clear rc => cases rc <;> rfl
  | tick => rw [effectOf, effectOf, tickWalk_withResponses]
  | _ => rfl

theorem answerTo_withResponses (i : Instr) : answerTo i (s.withResponses old) = answerTo i s := by
  cases i with
  | pending rc => cases rc <;> rfl
  | clear rc => cases rc <;> rfl
  | encode rc => cases rc <;> rfl
  | tick => rw [answerTo, answerTo, tickWalk_withResponses]
  | _ => rfl

end

/-- Settles O57: neither effect nor response looks at the responses recorded. -/
theorem statusIsNotRemembered : Obligations.StatusIsNotRemembered := by
  refine fun i s old => ⟨_, _, exec_eq i s, ?_, exec_responses i s⟩
  have hexec := exec_eq i (s.withResponses old)
  rw [effectOf_withResponses, answerTo_withResponses] at hexec
  exact hexec

/-- Settles O56: the three operations have no effect, and their response is not remembered. -/
theorem queriesChangeNothingAndRepeat : Obligations.QueriesChangeNothingAndRepeat := by
  intro i s hquery
  have heffect (u : State) : effectOf i u = u := by
    obtain ⟨rc, rfl⟩ | ⟨rc, rfl⟩ | ⟨n, rfl⟩ := hquery <;> rfl
  refine ⟨answerTo i s, by rw [exec_eq, heffect], ?_⟩
  rw [exec_eq, heffect]
  exact congrArg (fun r => Host.Outcome.next (State.respond r _)) (answerTo_withResponses _ s i)

/-- Settles O58: an effect writes the control state and the calls only through `now` and the walk. -/
theorem onlyTimeAndTickTouchControlState : Obligations.OnlyTimeAndTickTouchControlState := by
  intro i s t h
  obtain rfl := eq_of_exec h
  simp only [respond_blk, respond_io_txs, respond_io_calls]
  cases i with
  | now => exact ⟨fun _ => ⟨rfl, rfl, rfl⟩, fun _ hnow => absurd rfl hnow⟩
  | tick => exact ⟨fun htick => absurd rfl htick, fun htick => absurd rfl htick⟩
  | clear rc => cases rc <;> simp [effectOf]
  | _ => simp [effectOf]

end Sys2Proof.Machine
end

section
/-! What an operation can write into the registry, said once, and what every such write keeps: the registered variables
(spec/10_state.md R23 (d), R26), the payloads (spec/20_memory.md R75), an empty pending list (spec/42_rate_queue.md
R191) and the registry invariants (spec/10_state.md R23). -/

namespace Sys2Proof.Machine

/-- The registry `slots'` is `slots` after a write of the operation `i`: none, REGISTER's of the first free slot,
SUBMIT's of the slot that holds its identifier, or the unmarking of whole classes by CLEAR or TICK. -/
inductive RegistryWrite : Instr → List Slot → List Slot → Prop
  | kept (i : Instr) (slots : List Slot) : RegistryWrite i slots slots
  | declared {slots : List Slot} {id : VarId} {c : RateClass} {vt : VarType} {k : Nat} (hid : id ≠ 0)
      (hfresh : find slots id = none) (hfree : firstFree slots = some k) :
      RegistryWrite (.register id (some c) vt) slots (slots.modify k (·.declare id vt c))
  | stored {slots : List Slot} {id : VarId} {n : BitVec 9} {k : Nat} (w : List Byte) (hfind : find slots id = some k) :
      RegistryWrite (.submit id n) slots (slots.modify k (·.store w))
  | unmarked (i : Instr) (slots : List Slot) (classes : RateClass → Bool) :
      RegistryWrite i slots (slots.map (Slot.unmark classes))

theorem register_registryWrite {slots slots' : List Slot} {id : VarId} {rc : Option RateClass} {vt : VarType}
    (h : register slots id rc vt = .ok slots') : RegistryWrite (.register id rc vt) slots slots' := by
  obtain ⟨c, k, rfl, hid, hfresh, hfree, rfl⟩ := register_cases h
  exact .declared hid hfresh hfree

theorem submit_registryWrite {slots slots' : List Slot} {id : VarId} {n : BitVec 9} {w : List Byte}
    (h : submit slots id n.toNat w = .ok slots') : RegistryWrite (.submit id n) slots slots' := by
  obtain ⟨k, hfind, -, rfl⟩ := submit_cases h
  exact .stored w hfind

theorem written_registryWrite {i : Instr} {r : Except Status (List Slot)} {s : State}
    (h : ∀ slots, r = .ok slots → RegistryWrite i s.blk.slots slots) :
    RegistryWrite i s.blk.slots (s.written r).blk.slots := by
  cases r with
  | error e => exact .kept i _
  | ok slots => exact h slots rfl

/-- What an operation can write into the registry. -/
theorem effectOf_registryWrite (i : Instr) (s : State) : RegistryWrite i s.blk.slots (effectOf i s).blk.slots := by
  cases i with
  | register id rc vt => exact written_registryWrite fun _ => register_registryWrite
  | submit id n => exact written_registryWrite fun _ => submit_registryWrite
  | clear rc =>
    cases rc with
    | none => exact .kept _ _
    | some c =>
      rw [effectOf, clearClass_blk_slots, clearSlots_eq_map]
      exact .unmarked _ _ _
  | tick =>
    rw [effectOf, tickWalk_slots]
    exact .unmarked _ _ _
  | _ => exact .kept _ _

theorem exec_registryWrite {i : Instr} {s t : State} (h : exec i s = .next t) :
    RegistryWrite i s.blk.slots t.blk.slots := by
  rw [eq_of_exec h, respond_blk]
  exact effectOf_registryWrite i s

theorem RegistryWrite.length_eq {i : Instr} {slots slots' : List Slot} (h : RegistryWrite i slots slots') :
    slots'.length = slots.length := by
  cases h <;> simp

/-- A write of one slot, seen at a slot. -/
theorem getElem?_modify_of_getElem? {slots : List Slot} {k : Nat} {sl : Slot} (f : Slot → Slot) (j : Nat)
    (h : slots[k]? = some sl) : (slots.modify j f)[k]? = some (if j = k then f sl else sl) := by
  rw [List.getElem?_modify, h]
  rfl

/-- The slot that REGISTER takes is not occupied. -/
theorem occupied_of_firstFree {slots : List Slot} {k : Nat} {sl : Slot} (hfree : firstFree slots = some k)
    (h : slots[k]? = some sl) : sl.occupied = false := by
  obtain ⟨x, hx, hocc, -⟩ := firstFree_eq_some_iff.1 hfree
  obtain rfl : x = sl := Option.some.inj (hx.symm.trans h)
  exact hocc

/-- An occupied slot stays occupied, with its identifier, type and class. -/
theorem RegistryWrite.keeps_declaration {i : Instr} {slots slots' : List Slot} (h : RegistryWrite i slots slots')
    {k : Nat} {sl : Slot} (hk : slots[k]? = some sl) (hocc : sl.occupied = true) :
    ∃ sl', slots'[k]? = some sl' ∧ sl'.occupied = true ∧ sl'.id = sl.id ∧ sl'.vtype = sl.vtype ∧
      sl'.rclass = sl.rclass := by
  cases h with
  | kept => exact ⟨sl, hk, hocc, rfl, rfl, rfl⟩
  | @declared _ id c vt j hid hfresh hfree =>
    have hjk : j ≠ k := by
      rintro rfl
      rw [occupied_of_firstFree hfree hk] at hocc
      cases hocc
    exact ⟨sl, by rw [getElem?_modify_of_getElem? _ j hk, if_neg hjk], hocc, rfl, rfl, rfl⟩
  | @stored _ id n j w hfind =>
    refine ⟨_, getElem?_modify_of_getElem? _ j hk, ?_⟩
    split
    · exact ⟨hocc, rfl, rfl, rfl⟩
    · exact ⟨hocc, rfl, rfl, rfl⟩
  | unmarked _ _ classes => exact ⟨sl.unmark classes, by rw [List.getElem?_map, hk]; rfl, hocc, rfl, rfl, rfl⟩

/-- Settles O59: no write of an operation touches what an occupied slot declares. -/
theorem registeredVariablesStay : Obligations.RegisteredVariablesStay :=
  fun _ _ _ _ _ h hk hocc => (exec_registryWrite h).keeps_declaration hk hocc

/-- A payload is written by SUBMIT of the slot's identifier only. -/
theorem RegistryWrite.keeps_payload {i : Instr} {slots slots' : List Slot} (h : RegistryWrite i slots slots')
    {k : Nat} {sl : Slot} (hk : slots[k]? = some sl) (hi : ∀ n, i ≠ .submit sl.id n) :
    ∃ sl', slots'[k]? = some sl' ∧ sl'.payload = sl.payload := by
  cases h with
  | kept => exact ⟨sl, hk, rfl⟩
  | @declared _ id c vt j hid hfresh hfree =>
    refine ⟨_, getElem?_modify_of_getElem? _ j hk, ?_⟩
    split
    · rfl
    · rfl
  | @stored _ id n j w hfind =>
    have hjk : j ≠ k := by
      rintro rfl
      obtain ⟨x, hx, hholds, -⟩ := find_eq_some_iff.1 hfind
      obtain rfl : x = sl := Option.some.inj (hx.symm.trans hk)
      obtain ⟨-, rfl⟩ := holds_iff.1 hholds
      exact hi n rfl
    exact ⟨sl, by rw [getElem?_modify_of_getElem? _ j hk, if_neg hjk], rfl⟩
  | unmarked _ _ classes => exact ⟨sl.unmark classes, by rw [List.getElem?_map, hk]; rfl, rfl⟩

/-- Settles O60: of the writes of an operation only SUBMIT's is one of a payload. -/
theorem onlySubmitWritesPayloads : Obligations.OnlySubmitWritesPayloads :=
  fun _ _ _ _ _ h hk hi => (exec_registryWrite h).keeps_payload hk hi

/-- Unmarking adds no entry to a pending list. -/
theorem pendingEntry_of_map_unmark {classes : RateClass → Bool} {c : RateClass} {slots : List Slot} {id : VarId}
    {e : Entry} (h : pendingEntry c (slots.map (Slot.unmark classes)) id = some e) :
    pendingEntry c slots id = some e := by
  obtain ⟨k, hfind, hclass, hdirty, he⟩ := pendingEntry_eq_some_iff.1 h
  rw [find_map (unmark_holds classes)] at hfind
  rw [slotAt_map_unmark] at hclass hdirty he
  obtain ⟨hmarked, -⟩ := Bool.and_eq_true_iff.1 hdirty
  exact pendingEntry_eq_some_iff.2 ⟨k, hfind, hclass, hmarked, he⟩

/-- Only SUBMIT puts something into an empty pending list. -/
theorem RegistryWrite.keeps_pendingList_eq_nil {i : Instr} {slots slots' : List Slot} (h : RegistryWrite i slots slots')
    {c : RateClass} (hempty : pendingList c slots = []) (hi : ∀ id n, i ≠ .submit id n) :
    pendingList c slots' = [] := by
  cases h with
  | kept => exact hempty
  | declared hid hfresh hfree => rw [pendingList_congr fun id _ => pendingEntry_register c hfresh hfree id, hempty]
  | stored w hfind => exact absurd rfl (hi _ _)
  | unmarked _ _ classes =>
    refine pendingList_eq_nil_iff.2 fun id hid => Option.eq_none_iff_forall_ne_some.2 fun e he => ?_
    have hentry := pendingEntry_of_map_unmark he
    rw [pendingList_eq_nil_iff.1 hempty id hid] at hentry
    cases hentry

/-- Settles O29: CLEAR empties the list, and no write but SUBMIT's fills it. -/
theorem clearedClassStaysEmpty : Obligations.ClearedClassStaysEmpty :=
  ⟨fun s c => ⟨_, exec_clear c s, pendingList_clearSlots_same c s.blk.slots⟩,
    fun _ _ _ _ hempty hi h => (exec_registryWrite h).keeps_pendingList_eq_nil hempty hi⟩

/-! ### The registry invariants -/

/-- A relation that holds of any two slots in order holds after a `set` if the new slot stands in it to the others. -/
theorem pairwise_set {R : Slot → Slot → Prop} {slots : List Slot} {k : Nat} {new : Slot} (h : slots.Pairwise R)
    (hbefore : ∀ j < k, ∀ x, slots[j]? = some x → R x new) (hafter : ∀ x ∈ slots, R new x) :
    (slots.set k new).Pairwise R := by
  refine List.pairwise_iff_getElem.2 fun i j hi hj hij => ?_
  rw [List.length_set] at hi hj
  rw [List.getElem_set, List.getElem_set]
  split_ifs with hki hkj hkj
  · omega
  · exact hafter _ (List.getElem_mem hj)
  · exact hbefore i (hkj ▸ hij) _ (List.getElem?_eq_getElem hi)
  · exact List.pairwise_iff_getElem.1 h i j hi hj hij

/-- What R23 (a), (b) and (d) look at in a slot. -/
def Slot.key (sl : Slot) : Bool × VarId := (sl.occupied, sl.id)

/-- A write of one slot that keeps its key keeps all keys. -/
theorem map_key_modify {f : Slot → Slot} (hf : ∀ sl, (f sl).key = sl.key) (slots : List Slot) (k : Nat) :
    (slots.modify k f).map Slot.key = slots.map Slot.key := by
  apply List.ext_getElem?
  intro j
  rw [List.getElem?_map, List.getElem?_map, List.getElem?_modify]
  cases slots[j]? with
  | none => rfl
  | some sl =>
    simp only [Option.map_eq_map, Option.map_some]
    split
    · rw [hf]
    · rfl

/-- The invariants that look at keys only are kept with the keys. -/
theorem registryInv_of_map_key_eq {slots slots' : List Slot} (h : RegistryInv slots)
    (hkey : slots'.map Slot.key = slots.map Slot.key) (hdirty : DirtyIsOccupied slots') : RegistryInv slots' := by
  obtain ⟨hunique, hzero, hprefix, -⟩ := h
  have hpair (R : Bool × VarId → Bool × VarId → Prop) (hR : slots.Pairwise fun a b => R a.key b.key) :
      slots'.Pairwise fun a b => R a.key b.key := by
    rwa [← List.pairwise_map, hkey, List.pairwise_map]
  refine ⟨hpair (fun a b => a.1 = true → b.1 = true → a.2 ≠ b.2) hunique, fun sl hsl hocc => ?_,
    hpair (fun a b => b.1 = true → a.1 = true) hprefix, hdirty⟩
  obtain ⟨sl', hsl', heq⟩ := List.mem_map.1 (hkey ▸ List.mem_map_of_mem hsl : sl.key ∈ slots.map Slot.key)
  obtain ⟨hocc', hid'⟩ : sl'.occupied = sl.occupied ∧ sl'.id = sl.id := Prod.ext_iff.1 heq
  exact hid' ▸ hzero sl' hsl' (hocc'.trans hocc)

/-- REGISTER puts a fresh identifier right behind the occupied slots. -/
theorem registryInv_declare {slots : List Slot} (h : RegistryInv slots) {id : VarId} {c : RateClass} {vt : VarType}
    {k : Nat} (hid : id ≠ 0) (hfresh : find slots id = none) (hfree : firstFree slots = some k) :
    RegistryInv (slots.modify k (·.declare id vt c)) := by
  obtain ⟨hunique, hzero, hprefix, hdirty⟩ := h
  obtain ⟨sl, hk, -, hbefore⟩ := firstFree_eq_some_iff.1 hfree
  have hne (x : Slot) (hx : x ∈ slots) (hocc : x.occupied = true) : x.id ≠ id := fun hxid =>
    holds_eq_false_iff.1 (find_eq_none_iff.1 hfresh x hx) ⟨hocc, hxid⟩
  rw [modify_eq_set_of_getElem? _ hk]
  refine ⟨pairwise_set hunique (fun j _ x hx hocc _ => hne x (List.mem_of_getElem? hx) hocc)
    (fun x hx _ hocc => (hne x hx hocc).symm), fun x hx => ?_,
    pairwise_set hprefix (fun j hj x hx _ => hbefore j hj x hx) (fun _ _ _ => rfl), fun x hx => ?_⟩
  · obtain hx | rfl := List.mem_or_eq_of_mem_set hx
    · exact hzero x hx
    · exact fun _ => hid
  · obtain hx | rfl := List.mem_or_eq_of_mem_set hx
    · exact hdirty x hx
    · exact fun _ => rfl

/-- SUBMIT marks an occupied slot. -/
theorem registryInv_store {slots : List Slot} (h : RegistryInv slots) {id : VarId} {k : Nat} (w : List Byte)
    (hfind : find slots id = some k) : RegistryInv (slots.modify k (·.store w)) := by
  refine registryInv_of_map_key_eq h (map_key_modify (f := (·.store w)) (fun _ => rfl) slots k) fun x hx => ?_
  obtain ⟨sl, hk, hholds, -⟩ := find_eq_some_iff.1 hfind
  obtain ⟨-, -, -, hdirty⟩ := h
  rw [modify_eq_set_of_getElem? _ hk] at hx
  obtain hx | rfl := List.mem_or_eq_of_mem_set hx
  · exact hdirty x hx
  · exact fun _ => (holds_iff.1 hholds).1

theorem registryInv_map_unmark {slots : List Slot} (h : RegistryInv slots) (classes : RateClass → Bool) :
    RegistryInv (slots.map (Slot.unmark classes)) := by
  refine registryInv_of_map_key_eq h (by rw [List.map_map]; rfl) fun x hx hmarked => ?_
  obtain ⟨sl, hsl, rfl⟩ := List.mem_map.1 hx
  obtain ⟨-, -, -, hdirty⟩ := h
  exact hdirty sl hsl (Bool.and_eq_true_iff.1 hmarked).1

theorem RegistryWrite.keeps_registryInv {i : Instr} {slots slots' : List Slot} (h : RegistryWrite i slots slots')
    (hinv : RegistryInv slots) : RegistryInv slots' := by
  cases h with
  | kept => exact hinv
  | declared hid hfresh hfree => exact registryInv_declare hinv hid hfresh hfree
  | stored w hfind => exact registryInv_store hinv w hfind
  | unmarked _ _ classes => exact registryInv_map_unmark hinv classes

end Sys2Proof.Machine
end

section
/-! REGISTER, SUBMIT and PENDING under the registry invariants (spec/41_registry.md R151, R152, R155, R164,
spec/42_rate_queue.md R183). -/

namespace Sys2Proof.Machine

/-- Where the occupied slots stand first, the first free slot stands behind as many as are occupied. -/
theorem firstFree_eq_countP {slots : List Slot} (h : OccupiedPrefix slots)
    (hroom : slots.countP (·.occupied) < slots.length) : firstFree slots = some (slots.countP (·.occupied)) := by
  induction slots with
  | nil => exact absurd hroom (Nat.lt_irrefl 0)
  | cons a l ih =>
    obtain ⟨hfirst, hrest⟩ := List.pairwise_cons.1 h
    cases hocc : a.occupied with
    | true =>
      rw [List.countP_cons_of_pos hocc] at hroom ⊢
      have hl := ih hrest (Nat.lt_of_succ_lt_succ hroom)
      rw [firstFree, List.findIdx?_cons]
      simp only [hocc, Bool.not_true, Bool.false_eq_true, if_false]
      exact congrArg (Option.map (· + 1)) hl
    | false =>
      have hnone : l.countP (·.occupied) = 0 := List.countP_eq_zero.2 fun x hx hxocc => by
        rw [hfirst x hx hxocc] at hocc
        cases hocc
      rw [List.countP_cons_of_neg (by simp [hocc]), hnone, firstFree, List.findIdx?_cons]
      simp [hocc]

/-- Settles O21: below capacity the first free slot is the one behind the occupied ones; at capacity there is none. -/
theorem registerSucceedsBelowCapacity : Obligations.RegisterSucceedsBelowCapacity := by
  intro s id c vt hinv hid hfresh m
  obtain ⟨-, -, hprefix, -⟩ := hinv
  refine ⟨fun hroom => exec_register_of_ok ?_, fun hfull => exec_register_of_error ?_⟩
  · rw [register_of_fresh c vt hid hfresh, firstFree_eq_countP hprefix hroom]
    rfl
  · rw [register_of_fresh c vt hid hfresh, firstFree_eq_none_iff.2 (List.countP_eq_length.1 hfull)]
    rfl

/-- REGISTER leaves the identifier registered. -/
theorem not_notRegistered_of_register {slots slots' : List Slot} {id : VarId} {rc : Option RateClass} {vt : VarType}
    (h : register slots id rc vt = .ok slots') : ¬NotRegistered slots' id := by
  obtain ⟨c, k, -, -, -, hfree, rfl⟩ := register_cases h
  obtain ⟨sl, hk, -, -⟩ := firstFree_eq_some_iff.1 hfree
  have hdeclared : (slots.modify k (·.declare id vt c))[k]? = some (sl.declare id vt c) := by
    rw [getElem?_modify_self, hk, Option.map_some]
  exact fun hnot => hnot _ (List.mem_of_getElem? hdeclared) ⟨rfl, rfl⟩

/-- Settles O22: the second REGISTER finds the identifier registered. -/
theorem registerTwiceIsDuplicate : Obligations.RegisterTwiceIsDuplicate := by
  intro s id c c' vt vt' slots h
  obtain ⟨_, _, -, hid, -⟩ := register_cases h
  exact ⟨_, exec_register_of_ok h, rfl,
    exec_register_of_error (register_of_registered c' vt' hid (not_notRegistered_of_register h))⟩

/-- An ascending list with one element is that element alone. -/
theorem eq_singleton_of_ascending {p : List Entry} {e : Entry} (h : p.Pairwise fun a b => a.id < b.id) (he : e ∈ p)
    (hall : ∀ x ∈ p, x = e) : p = [e] := by
  match p, he with
  | [a], he => rw [List.mem_singleton.1 he]
  | a :: b :: l, _ =>
    have hab := List.rel_of_pairwise_cons h List.mem_cons_self
    rw [hall a List.mem_cons_self, hall b (List.mem_cons_of_mem _ List.mem_cons_self)] at hab
    exact absurd hab (BitVec.lt_irrefl _)

/-- SUBMIT with the right count writes the slot that holds the identifier. -/
theorem exec_submit_of_firstHolder {s : State} {id : VarId} {n : BitVec 9} {k : Nat} {sl : Slot}
    (hsl : FirstHolder s.blk.slots id k sl) (hn : n.toNat = sl.vtype.width) : exec (.submit id n) s =
      .next ((s.setSlots (s.blk.slots.modify k (·.store s.io.port.wbuf))).respond ⟨.ok, 0, []⟩) := by
  apply exec_submit_of_ok
  rw [submit_of_firstHolder hsl, if_neg (not_not_intro hn), modify_eq_set_of_getElem? _ hsl.1]

/-- The other entries after a SUBMIT are those of slots that were dirty before. -/
theorem exists_dirty_of_mem_submit {slots : List Slot} {c : RateClass} {id : VarId} {k : Nat} {w : List Byte}
    {e : Entry} (hinv : RegistryInv slots) (hfind : find slots id = some k)
    (he : e ∈ pendingList c (slots.modify k (·.store w))) (hne : e.id ≠ id) :
    ∃ x ∈ slots, x.id = e.id ∧ x.rclass = c ∧ x.dirty = true := by
  obtain ⟨heid, hentry⟩ := mem_pendingList.1 he
  rw [pendingEntry_submit_other c hfind hne] at hentry
  obtain ⟨x, hx, -, hclass, hdirty, rfl⟩ :=
    (mem_pendingList_iff_exists_slot hinv).1 (mem_pendingList.2 ⟨heid, hentry⟩)
  exact ⟨x, hx, rfl, hclass, hdirty⟩

/-- Settles O25: SUBMIT makes the entry of its identifier, and any other entry was there before. -/
theorem submittedValueIsPending : Obligations.SubmittedValueIsPending := by
  intro s id n k sl hinv hsl hn
  obtain ⟨hfind, hslot⟩ := firstHolder_iff.1 hsl
  have hexec := exec_submit_of_firstHolder hsl hn
  have ⟨_, hzero, _, _⟩ := hinv
  obtain ⟨hk, hocc, rfl, -⟩ := hsl
  have hentry := pendingEntry_submit_self (w := s.io.port.wbuf) hfind
  rw [hslot, ← hn] at hentry
  refine ⟨_, hexec, ?_⟩
  rw [respond_blk, setSlots_blk_slots]
  have hmem : (⟨sl.id, sl.vtype, wbufPrefix s.io.port.wbuf n.toNat⟩ : Entry) ∈ pendingList _ _ :=
    mem_pendingList.2 ⟨hzero sl (List.mem_of_getElem? hk) hocc, hentry⟩
  refine ⟨hmem, fun hclean => eq_singleton_of_ascending (pendingList_ascends _ _) hmem fun e he => ?_⟩
  by_cases hsame : e.id = sl.id
  · obtain ⟨-, he⟩ := mem_pendingList.1 he
    rw [hsame, hentry] at he
    exact (Option.some.inj he).symm
  · obtain ⟨x, hx, hxid, hclass, hdirty⟩ := exists_dirty_of_mem_submit hinv hfind he hsame
    rw [hclean x hx (hxid ▸ hsame) hclass] at hdirty
    cases hdirty

theorem pendingList_ids_nodup (c : RateClass) (slots : List Slot) : ((pendingList c slots).map Entry.id).Nodup := by
  rw [List.Nodup, List.pairwise_map]
  exact (pendingList_ascends c slots).imp fun h => BitVec.ne_of_lt h

/-- Every entry is that of a slot. -/
theorem pendingList_ids_subset (c : RateClass) (slots : List Slot) :
    (pendingList c slots).map Entry.id ⊆ slots.map Slot.id := by
  intro id hid
  obtain ⟨e, he, rfl⟩ := List.mem_map.1 hid
  obtain ⟨k, hfind, -⟩ := pendingEntry_eq_some_iff.1 (mem_pendingList.1 he).2
  obtain ⟨sl, hk, hholds, -⟩ := find_eq_some_iff.1 hfind
  exact List.mem_map.2 ⟨sl, List.mem_of_getElem? hk, (holds_iff.1 hholds).2⟩

/-- Settles O27: the entries have different identifiers, which are those of slots and at most 255. -/
theorem pendingListIsBounded : Obligations.PendingListIsBounded := by
  refine fun c slots => ⟨fun e => payload_length_of_mem, ?_, ?_⟩
  · have hle := (List.subperm_of_subset (pendingList_ids_nodup c slots) (pendingList_ids_subset c slots)).length_le
    rwa [List.length_map, List.length_map] at hle
  · exact (List.length_filterMap_le _ allIds).trans_eq (by rw [allIds, List.length_map, List.length_range])

end Sys2Proof.Machine
end

section
/-! The step (spec/20_memory.md R68, spec/60_exceptions.md R301, R316): which request it takes, what it runs, and the
reset event (spec/70_reset_and_hazards.md R330). -/

namespace Sys2Proof.Machine

/-! ### The request taken -/

theorem accept_int {s : State} {q : Transaction} {qs : List Transaction} (hmain : s.io.mainQ = [])
    (hint : s.io.intQ = q :: qs) : s.accept = some (s.takeInt q qs) := by
  rw [State.accept, hmain, hint]

theorem accept_none {s : State} (hmain : s.io.mainQ = []) (hint : s.io.intQ = []) : s.accept = none := by
  rw [State.accept, hmain, hint]

theorem accept_both {s : State} {m q : Transaction} {ms qs : List Transaction} (hmain : s.io.mainQ = m :: ms)
    (hint : s.io.intQ = q :: qs) :
    s.accept = some (if s.pick.1 then s.pick.2.takeMain m ms else s.pick.2.takeInt q qs) := by
  rw [State.accept, hmain, hint]

/-- The choice, by its answer. -/
theorem pick_of_answered {s : State} {b : Bool} {rest : List Bool} {n : Nat}
    (h : Answered Config.freePick s.io.picks s.io.nextFree b rest n) :
    s.pick = (b, { s with io := { s.io with picks := rest, nextFree := n } }) := by
  rw [State.pick, draw_of_answered h]

/-- Settles O6: `accept` with at most one queue waiting. -/
theorem theWaitingRequestIsTaken : Obligations.TheWaitingRequestIsTaken :=
  ⟨fun _ _ _ => accept_main, fun _ _ _ => accept_int, fun _ => accept_none⟩

/-- Settles O7: with both queues waiting the choice, by its answer, decides. -/
theorem arbitrationAllowsBothOrders : Obligations.ArbitrationAllowsBothOrders := by
  intro s m q ms qs b rest n hmain hint h
  rw [accept_both hmain hint, pick_of_answered h]
  rfl

/-- A presented request is taken next, whatever else waits. -/
theorem accept_present (t : Transaction) (s : State) :
    (s.present t).accept = some { s with io := { s.io with resetReq := false, port := t } } := by
  cases hint : s.io.intQ with
  | nil =>
    rw [accept_main (s := s.present t) rfl hint]
    simp only [State.present, State.takeMain, hint]
    rfl
  | cons q qs =>
    have hpick : Answered Config.freePick (s.present t).io.picks (s.present t).io.nextFree true s.io.picks
        s.io.nextFree := by
      refine .inl ⟨?_, rfl⟩
      simp only [State.present, hint]
      rfl
    rw [accept_both (s := s.present t) rfl hint, pick_of_answered hpick]
    rfl

/-! ### What a step runs -/

theorem step_of_reset {s : State} (h : s.io.resetReq = true) : step s = .next s.resetEvent := if_pos h

theorem step_of_accept {s s' : State} (hreset : s.io.resetReq = false) (h : s.accept = some s') :
    step s = runCommand s' := by
  simp only [step, hreset, h, Bool.false_eq_true, if_false]

theorem step_of_idle {s : State} (hreset : s.io.resetReq = false) (h : s.accept = none) : step s = .next s := by
  simp only [step, hreset, h, Bool.false_eq_true, if_false]

theorem runCommand_of_ok {s : State} {i : Instr} (h : decode s.io.port.cw = .ok i) : runCommand s = exec i s := by
  simp only [runCommand, h]

theorem runCommand_of_error {s : State} {e : DecodeError} (h : decode s.io.port.cw = .error e) :
    runCommand s = .next (s.raise .illegalCommand) := by
  simp only [runCommand, h]

/-- Settles O5: the command taken is decoded and run. -/
theorem stepRunsTheDecodedCommand : Obligations.StepRunsTheDecodedCommand :=
  fun _ _ _ hreset haccept hdecode => (step_of_accept hreset haccept).trans (runCommand_of_ok hdecode)

theorem decode_of_decodeTableWord {nbits w : Nat} {i : Instr} (h : decodeTableWord nbits w = some i) :
    decode (BitVec.ofNat 32 (w % 2 ^ nbits)) = .ok i := by
  unfold decodeTableWord at h
  split at h
  · next j hj =>
    cases h
    exact hj
  · cases h

/-- Settles O8: the word presented is taken next and decoded. -/
theorem presentedWordRunsNext : Obligations.PresentedWordRunsNext :=
  fun s _ _ _ h => (step_of_accept rfl (accept_present _ s)).trans (runCommand_of_ok (decode_of_decodeTableWord h))

/-- Settles O9: the decoder answers its error, and the step raises `IllegalCommand`. -/
theorem undefinedOpcodeIsRefused : Obligations.UndefinedOpcodeIsRefused :=
  fun _ _ hreset haccept hop =>
    (step_of_accept hreset haccept).trans (runCommand_of_error (decode_eq_error_iff.2 ⟨rfl, hop⟩))

/-- Settles O10: nothing is taken. -/
theorem idleStepChangesNothing : Obligations.IdleStepChangesNothing :=
  fun _ hreset hmain hint => step_of_idle hreset (accept_none hmain hint)

/-- What a command run leaves: an operation's effect and response, or the refusal of an undefined opcode. -/
theorem runCommand_cases (s : State) :
    (∃ i, runCommand s = .next ((effectOf i s).respond (answerTo i s))) ∨
      runCommand s = .next (s.raise .illegalCommand) := by
  cases h : decode s.io.port.cw with
  | ok i => exact .inl ⟨i, (runCommand_of_ok h).trans (exec_eq i s)⟩
  | error e => exact .inr (runCommand_of_error h)

/-- What a step can do: the reset event, nothing, or one command on the state that took it. -/
theorem step_cases (s : State) :
    step s = .next s.resetEvent ∨ step s = .next s ∨
      ∃ s', s.accept = some s' ∧ ((∃ i, step s = .next ((effectOf i s').respond (answerTo i s'))) ∨
        step s = .next (s'.raise .illegalCommand)) := by
  cases hreset : s.io.resetReq with
  | true => exact .inl (step_of_reset hreset)
  | false =>
    cases haccept : s.accept with
    | none => exact .inr (.inl (step_of_idle hreset haccept))
    | some s' =>
      rw [step_of_accept hreset haccept]
      exact .inr (.inr ⟨s', rfl, runCommand_cases s'⟩)

/-- Settles O11: every case of a step answers a next state. -/
theorem everyStepContinues : Obligations.EveryStepContinues := by
  intro s
  obtain h | h | ⟨s', -, ⟨i, h⟩ | h⟩ := step_cases s <;> exact ⟨_, h⟩

/-- Taking a request leaves the parameters, the architectural state and the calls. -/
theorem accept_keeps {s s' : State} (h : s.accept = some s') :
    s'.cfg = s.cfg ∧ s'.blk = s.blk ∧ s'.io.calls = s.io.calls := by
  unfold State.accept at h
  split at h <;> cases h
  · exact ⟨rfl, rfl, rfl⟩
  · exact ⟨rfl, rfl, rfl⟩
  · split <;> exact ⟨rfl, rfl, rfl⟩

/-- A step keeps what the reset event and every operation keep and what does not depend on requests and responses. -/
theorem step_keeps {P : State → Prop}
    (hsame : ∀ s s' : State, s'.cfg = s.cfg → s'.blk = s.blk → s'.io.calls = s.io.calls → P s → P s')
    (hreset : ∀ s, P s → P s.resetEvent) (heffect : ∀ i s, P s → P (effectOf i s)) {s t : State} (hs : P s)
    (h : step s = .next t) : P t := by
  obtain hstep | hstep | ⟨s', haccept, hrun⟩ := step_cases s
  · cases hstep.symm.trans h
    exact hreset s hs
  · cases hstep.symm.trans h
    exact hs
  · obtain ⟨hcfg, hblk, hcalls⟩ := accept_keeps haccept
    have hs' := hsame s s' hcfg hblk hcalls hs
    obtain ⟨i, hstep⟩ | hstep := hrun <;> cases hstep.symm.trans h
    · exact hsame (effectOf i s') _ rfl rfl rfl (heffect i s' hs')
    · exact hsame s' _ rfl rfl rfl hs'

/-! ### Parameters and reset -/

@[simp] theorem effectOf_cfg (i : Instr) (s : State) : (effectOf i s).cfg = s.cfg := by
  cases i with
  | clear rc => cases rc <;> rfl
  | _ => simp [effectOf]

/-- Settles O12: neither the reset event nor any effect writes the parameters. -/
theorem parametersNeverChange : Obligations.ParametersNeverChange := by
  intro s t h
  exact step_keeps (P := fun u => u.cfg = s.cfg) (fun _ _ hcfg _ _ hu => hcfg.trans hu) (fun _ hu => hu)
    (fun i u hu => (effectOf_cfg i u).trans hu) rfl h

theorem eq_empty_of_mem_reset {c : Config} {sl : Slot} (h : sl ∈ (Block.reset c).slots) : sl = Slot.empty :=
  List.eq_of_mem_replicate h

theorem blockReset_statedResetValues (c : Config) : StatedResetValues c (Block.reset c) := by
  refine ⟨List.length_replicate, fun sl hsl => ?_, rfl, rfl, fun c => ?_, fun c => ?_⟩
  · rw [eq_empty_of_mem_reset hsl]
    exact ⟨rfl, rfl⟩
  · cases c <;> rfl
  · cases c <;> rfl

/-- Settles O13: the reset state is built of the stated values. -/
theorem resetLeavesTheStatedValues : Obligations.ResetLeavesTheStatedValues :=
  ⟨rfl, fun c => ⟨rfl, blockReset_statedResetValues c⟩⟩

/-- Settles O14: the reset event gives the block of the reset state. -/
theorem resetEventEmptiesTheBlock : Obligations.ResetEventEmptiesTheBlock :=
  fun s h => ⟨_, step_of_reset h, rfl, blockReset_statedResetValues s.cfg, rfl⟩

end Sys2Proof.Machine
end

section
/-! The machine's invariant (spec/10_state.md R20, R23, R25, R27): it holds after reset, and every step keeps it. -/

namespace Sys2Proof.Machine

/-- An unoccupied registry meets the registry invariants. -/
theorem registryInv_of_unoccupied {slots : List Slot} (h : ∀ sl ∈ slots, sl.occupied = false ∧ sl.dirty = false) :
    RegistryInv slots := by
  have hocc (sl : Slot) (hsl : sl ∈ slots) : sl.occupied ≠ true := by
    rw [(h sl hsl).1]
    decide
  refine ⟨List.pairwise_of_forall_mem_list fun a ha _ _ hocca => absurd hocca (hocc a ha), fun sl hsl hoccsl =>
    absurd hoccsl (hocc sl hsl), List.pairwise_of_forall_mem_list fun _ _ b hb hoccb => absurd hoccb (hocc b hb),
    fun sl hsl hdirty => ?_⟩
  rw [(h sl hsl).2] at hdirty
  cases hdirty

/-- The block after the reset event meets the invariant. -/
theorem machineInv_of_reset {s : State} (h : s.blk = Block.reset s.cfg) : MachineInv s := by
  obtain ⟨hlen, hslots, -⟩ := blockReset_statedResetValues s.cfg
  rw [MachineInv, h]
  exact ⟨hlen, registryInv_of_unoccupied hslots, ⟨Nat.two_pow_pos _, Nat.zero_mod _⟩, rfl⟩

/-- Settles O53: the reset block meets the invariant, and after reset no call is recorded. -/
theorem resetMeetsInvariant : Obligations.ResetMeetsInvariant :=
  fun c => ⟨machineInv_of_reset (s := State.resetWith c) rfl, fun _ _ h => absurd h List.not_mem_nil⟩

/-- R27 through one class of a TICK: whatever it does to the time source is a poll. -/
theorem tickClass_timeInv {c : RateClass} {s : State} (h : TimeInv s.cfg.rawWidth s.blk) :
    TimeInv s.cfg.rawWidth (tickClass c s).2.blk := by
  have hpoll : TimeInv s.cfg.rawWidth (now s).2.blk := now_timeInv h
  obtain h | ⟨-, h⟩ | ⟨-, -, h⟩ | ⟨f, -, -, ⟨-, h⟩ | ⟨-, h⟩⟩ := tickClass_cases c s <;> rw [h]
  · exact hpoll
  · exact now_timeInv (s := (now s).2.setSched c .due) hpoll
  · exact hpoll
  · exact hpoll
  · exact now_timeInv (s := clearClass c (transmit f ((now s).2.setSched c .due)).2) hpoll

theorem tickWalk_timeInv {s : State} (h : TimeInv s.cfg.rawWidth s.blk) :
    TimeInv s.cfg.rawWidth (tickWalk s).state.blk := by
  have hwalk := tickWalk_keeps (P := fun u => TimeInv u.cfg.rawWidth u.blk)
    (fun c u hu => by rw [tickClass_cfg]; exact tickClass_timeInv hu) h
  rwa [tickWalk_cfg] at hwalk

theorem effectOf_timeInv (i : Instr) {s : State} (h : TimeInv s.cfg.rawWidth s.blk) :
    TimeInv s.cfg.rawWidth (effectOf i s).blk := by
  cases i with
  | now => exact now_timeInv h
  | tick =>
    rw [effectOf]
    exact tickWalk_timeInv h
  | clear rc => cases rc <;> exact h
  | _ => simpa [effectOf, TimeInv] using h

theorem effectOf_allIdle (i : Instr) {s : State} (h : AllIdle s.blk) : AllIdle (effectOf i s).blk := by
  cases i with
  | tick =>
    obtain ⟨t, ht, hidle⟩ := tickLeavesEveryClassIdle s h
    rw [eq_of_exec ht] at hidle
    exact hidle
  | clear rc => cases rc <;> exact h
  | _ => simpa [effectOf, AllIdle] using h

theorem effectOf_machineInv (i : Instr) {s : State} (h : MachineInv s) : MachineInv (effectOf i s) := by
  obtain ⟨hlen, hreg, htime, hidle⟩ := h
  have hwrite := effectOf_registryWrite i s
  rw [MachineInv, effectOf_cfg]
  exact ⟨hwrite.length_eq.trans hlen, hwrite.keeps_registryInv hreg, effectOf_timeInv i htime,
    effectOf_allIdle i hidle⟩

/-- Settles O52: the reset event makes the invariant, and every effect keeps it. -/
theorem stepKeepsInvariant : Obligations.StepKeepsInvariant := by
  intro s t hs h
  refine step_keeps (fun u u' hcfg hblk _ hu => ?_) (fun u _ => machineInv_of_reset (s := u.resetEvent) rfl)
    (fun i u => effectOf_machineInv i) hs h
  rw [MachineInv, hcfg, hblk]
  exact hu

end Sys2Proof.Machine
end

section
/-! The frames handed to the transport (spec/60_exceptions.md R313): only TICK hands over frames, those of the encoder
for a list that is not empty. -/

namespace Sys2Proof.Machine

theorem two_le_regionLength {p : List Entry} (h : p ≠ []) : 2 ≤ regionLength p := by
  obtain ⟨e, l, rfl⟩ := List.exists_cons_of_ne_nil h
  have hwidth := width_pos e.vtype
  rw [regionLength_cons]
  omega

/-- The bytes before END end in the checksum of the others. -/
theorem encodeList_xorAll_dropLast {cfg : Config} {p : List Entry} {t : Time} {f : List Byte}
    (h : encodeList cfg p t = some f) : xorAll f.dropLast = 0 := by
  obtain ⟨-, rfl⟩ := encodeList_eq_some_iff.1 h
  rw [List.dropLast_append_of_ne_nil (List.cons_ne_nil _ _)]
  exact xorAll_checksum _

/-- A frame of the encoder for a list that is not empty is well framed. -/
theorem encodeList_wellFramed {cfg : Config} {p : List Entry} {t : Time} {f : List Byte}
    (h : encodeList cfg p t = some f) (hp : (pairRegion p).length = regionLength p) (hne : p ≠ []) :
    WellFramed cfg f := by
  have hlen := encodeList_length h hp
  have hlow := two_le_regionLength hne
  obtain ⟨hhigh, -⟩ := encodeList_eq_some_iff.1 h
  obtain ⟨-, hend⟩ := encodeList_trailer h hp
  refine ⟨by omega, by rw [maxPacket_eq]; omega, ?_, encodeList_startByte h, ?_, encodeList_xorAll_dropLast h⟩
  · rw [encodeList_lengthByte h, frameOverhead_eq, hlen]
  · rwa [hlen, show regionLength p + 8 - 1 = 7 + regionLength p by omega]

/-- What is recorded after a state is recorded before it or is one of the calls `cs`. -/
theorem FramesSent.append {s t : State} (h : FramesSent s) {cs : List Call} (hcfg : t.cfg = s.cfg)
    (hcalls : t.io.calls = s.io.calls ++ cs) (hcs : ∀ f ok, .transmit f ok ∈ cs → WellFramed s.cfg f) :
    FramesSent t := by
  intro f ok hf
  rw [hcalls] at hf
  rw [hcfg]
  exact (List.mem_append.1 hf).elim (h f ok) (hcs f ok)

/-- A poll hands over no frame. -/
theorem FramesSent.now {s : State} (h : FramesSent s) : FramesSent (now s).2 :=
  h.append rfl rfl fun f ok hf => by simp at hf

theorem FramesSent.transmit {s : State} (h : FramesSent s) {f : List Byte} (hf : WellFramed s.cfg f) :
    FramesSent (transmit f s).2 :=
  h.append rfl rfl fun g ok hg => by
    obtain ⟨rfl, -⟩ : g = f ∧ ok = _ := by simpa using hg
    exact hf

/-- One class of a TICK hands over the frame of its pending list, if that is not empty. -/
theorem tickClass_framesSent (c : RateClass) {s : State} (hs : FramesSent s) : FramesSent (tickClass c s).2 := by
  have hpoll : FramesSent ((now s).2.setSched c .due) := hs.now
  obtain h | ⟨-, h⟩ | ⟨-, -, h⟩ | ⟨f, hne, hf, hsent⟩ := tickClass_cases c s
  · rw [h]
    exact hpoll
  · rw [h]
    exact hpoll.now
  · rw [h]
    exact hpoll
  · have hframe := encodeList_wellFramed hf (pendingRegion_length c _) hne
    have htransmit := hpoll.transmit hframe
    obtain ⟨-, h⟩ | ⟨-, h⟩ := hsent <;> rw [h]
    · exact htransmit
    · exact FramesSent.now (s := clearClass c _) htransmit

theorem effectOf_framesSent (i : Instr) {s : State} (h : FramesSent s) : FramesSent (effectOf i s) := by
  cases i with
  | now => exact h.now
  | tick =>
    rw [effectOf]
    exact tickWalk_keeps (fun c _ => tickClass_framesSent c) h
  | clear rc => cases rc <;> exact h
  | _ => simpa [effectOf, FramesSent] using h

/-- Settles O51: the reset event keeps the record, and the frames that an effect adds to it are well framed. -/
theorem stepKeepsFramesWellFormed : Obligations.StepKeepsFramesWellFormed := by
  intro s t hs h
  refine step_keeps (fun u u' hcfg _ hcalls hu => ?_) (fun _ hu => hu) (fun i u => effectOf_framesSent i) hs h
  rw [FramesSent, hcfg, hcalls]
  exact hu

end Sys2Proof.Machine
end
